-- ==== Sys2Proof/Word.lean ====
section
/-! DEFINITION. The word and byte-vector types of the block (spec/00_scope.md R7, R8, R10): bytes, 64-bit unsigned
integers, the 72-bit command word, the 136-bit response word, and the fixed byte vectors of 256 and 16 bytes. -/

namespace Sys2Proof

/-- One byte (R10); a data beat is one byte (R8, `DATA_BITS` = 8). -/
abbrev Byte := BitVec 8

/-- An unsigned 64-bit integer (R10): the seed, the total length, every operand. -/
abbrev U64 := BitVec 64

/-- A command word, `CMD_BITS` = 72 (R8, R72). -/
abbrev CmdWord := BitVec 72

/-- A response word, `RSP_BITS` = 136 (R8, R79). -/
abbrev RspWord := BitVec 136

/-- Exactly 256 bytes, byte 0 first (R10): the state register and a block. -/
abbrev Bytes256 := Vector Byte 256

/-- Exactly 16 bytes, byte 0 first (R10): a digest. -/
abbrev Bytes16 := Vector Byte 16

end Sys2Proof
end

