-- ==== Sys2Proof/Syntax.lean ====
section
/-! DEFINITION. The eleven commands of the block, one constructor per row of spec/opcode_table.json
(spec/30_encoding.md R73, R74). A reserved operand, which must be 0, is no field of its command. -/

namespace Sys2Proof

/-- A command (R73). Its operand, where it has one, is the whole unsigned field `cmd_word[63:0]` (R74). -/
inductive Instr where
  /-- NEW, opcode 0x10: construct, width 16 (R100). -/
  | new (seed : U64)
  /-- NEW64, opcode 0x11: construct, width 8 (R100). -/
  | new64 (seed : U64)
  /-- NEW32, opcode 0x12: construct, width 4 (R100). -/
  | new32 (seed : U64)
  /-- WRITE, opcode 0x20: append the next `len` bytes of the data channel (R110). -/
  | write (len : U64)
  /-- RESET, opcode 0x21 (R140). -/
  | reset
  /-- SUM, opcode 0x30: the digest at the configured width (R151). -/
  | sum
  /-- SUMINTO, opcode 0x31: the 16-byte digest, for a destination of `dstLen` bytes (R155). -/
  | sumInto (dstLen : U64)
  /-- SUM64, opcode 0x32 (R157). -/
  | sum64
  /-- SUM32, opcode 0x33 (R159). -/
  | sum32
  /-- SIZE, opcode 0x40 (R170). -/
  | size
  /-- BLKSZ, opcode 0x41 (R171). -/
  | blksz
deriving DecidableEq, Repr

end Sys2Proof
end

