-- ==== Sys2Proof/WellFormed.lean ====
section
/-! DEFINITION. Well-formedness of what a host sends (spec/30_encoding.md R72 to R76, R90): a raw command word's two
fields, a command, and a command with the payload that goes with it. The lists of opcodes are written here from R75
and R76 independently of the decoder, so that the two can be compared. -/

namespace Sys2Proof

/-- The two fields of a command word (R72). -/
structure RawCommand where
  opcode  : BitVec 8
  operand : U64
deriving DecidableEq, Repr

/-- The five opcodes whose operand is free (R75): NEW, NEW64, NEW32, WRITE, SUMINTO. -/
def freeOperandOpcodes : List (BitVec 8) := [0x10, 0x11, 0x12, 0x20, 0x31]

/-- The six opcodes whose operand is reserved and must be 0 (R75): RESET, SUM, SUM64, SUM32, SIZE, BLKSZ. -/
def reservedOperandOpcodes : List (BitVec 8) := [0x21, 0x30, 0x32, 0x33, 0x40, 0x41]

/-- The opcode is one of the eleven (R73, R76). -/
def RawCommand.opcodeDefined (r : RawCommand) : Bool :=
  freeOperandOpcodes.contains r.opcode || reservedOperandOpcodes.contains r.opcode

/-- A reserved operand is 0 (R74, R76). -/
def RawCommand.reservedZero (r : RawCommand) : Bool :=
  !reservedOperandOpcodes.contains r.opcode || r.operand == 0

/-- A well-formed raw command: it decodes to one of the eleven commands (R75). -/
def RawCommand.wf (r : RawCommand) : Bool := r.opcodeDefined && r.reservedZero

/-- The fields of the word that stands for a command (R73, R74), as the assembler lays them out. -/
def Instr.raw : Instr → RawCommand
  | .new seed       => ⟨0x10, seed⟩
  | .new64 seed     => ⟨0x11, seed⟩
  | .new32 seed     => ⟨0x12, seed⟩
  | .write len      => ⟨0x20, len⟩
  | .reset          => ⟨0x21, 0⟩
  | .sum            => ⟨0x30, 0⟩
  | .sumInto dstLen => ⟨0x31, dstLen⟩
  | .sum64          => ⟨0x32, 0⟩
  | .sum32          => ⟨0x33, 0⟩
  | .size           => ⟨0x40, 0⟩
  | .blksz          => ⟨0x41, 0⟩

/-- A command is well formed when its raw form is (R74: every value of a free operand is legal). -/
def Instr.wf (i : Instr) : Bool := i.raw.wf

/-- How many payload bytes a command takes from the data channel (R82): `len` for a WRITE, none otherwise. -/
def Instr.payloadLength : Instr → Nat
  | .write len => len.toNat
  | .new _ | .new64 _ | .new32 _ | .reset | .sum | .sumInto _ | .sum64 | .sum32 | .size | .blksz => 0

/-- The payload that stands beside a command is exactly as long as the command says (R90, R242). -/
def Instr.payloadMatches (i : Instr) (payload : List Byte) : Bool := payload.length == i.payloadLength

end Sys2Proof
end

