-- ==== Sys2Proof/Decode.lean ====
section
/-! DEFINITION. The decoder, total on all 72-bit words (spec/30_encoding.md R75, R76), and after it the encoder
(R72, R73). -/

namespace Sys2Proof

/-- Why a word is `ILLEGAL` (R76). -/
inductive Illegal where
  /-- One of the 245 undefined opcode values, with any operand. -/
  | undefinedOpcode (opcode : BitVec 8)
  /-- One of the six reserved-operand opcodes with a non-zero operand. -/
  | reservedOperand (opcode : BitVec 8) (operand : U64)
deriving DecidableEq, Repr

/-- `cmd_word[71:64]` (R72). -/
def CmdWord.opcodeField (w : CmdWord) : BitVec 8 := w.extractLsb' 64 8

/-- `cmd_word[63:0]` (R72). -/
def CmdWord.operandField (w : CmdWord) : U64 := w.extractLsb' 0 64

/-- The fields of a command word (R72). -/
def CmdWord.fields (w : CmdWord) : RawCommand := ⟨CmdWord.opcodeField w, CmdWord.operandField w⟩

/-- A command whose operand is reserved: decoded only when the operand is 0 (R75). -/
def decodeReserved (op : BitVec 8) (x : U64) (i : Instr) : Except Illegal Instr :=
  if x = 0 then .ok i else .error (.reservedOperand op x)

/-- The decoding procedure of R75 on the two fields; a decoder matches all 8 opcode bits (R73). -/
def decodeFields (op : BitVec 8) (x : U64) : Except Illegal Instr :=
  if op = 0x10 then .ok (.new x)
  else if op = 0x11 then .ok (.new64 x)
  else if op = 0x12 then .ok (.new32 x)
  else if op = 0x20 then .ok (.write x)
  else if op = 0x21 then decodeReserved op x .reset
  else if op = 0x30 then decodeReserved op x .sum
  else if op = 0x31 then .ok (.sumInto x)
  else if op = 0x32 then decodeReserved op x .sum64
  else if op = 0x33 then decodeReserved op x .sum32
  else if op = 0x40 then decodeReserved op x .size
  else if op = 0x41 then decodeReserved op x .blksz
  else .error (.undefinedOpcode op)

/-- Decoding a command word: one of the eleven commands, or `ILLEGAL` with its reason (R75). -/
def decode (w : CmdWord) : Except Illegal Instr :=
  decodeFields (CmdWord.opcodeField w) (CmdWord.operandField w)

/-- The opcode of a command (R73). -/
def opcodeOf : Instr → BitVec 8
  | .new _     => 0x10
  | .new64 _   => 0x11
  | .new32 _   => 0x12
  | .write _   => 0x20
  | .reset     => 0x21
  | .sum       => 0x30
  | .sumInto _ => 0x31
  | .sum64     => 0x32
  | .sum32     => 0x33
  | .size      => 0x40
  | .blksz     => 0x41

/-- The operand of a command; a reserved operand is 0 (R74). -/
def operandOf : Instr → U64
  | .new seed       => seed
  | .new64 seed     => seed
  | .new32 seed     => seed
  | .write len      => len
  | .sumInto dstLen => dstLen
  | .reset          => 0
  | .sum            => 0
  | .sum64          => 0
  | .sum32          => 0
  | .size           => 0
  | .blksz          => 0

/-- The command word of a command: `{opcode, operand}` (R72). -/
def encode (i : Instr) : CmdWord := opcodeOf i ++ operandOf i

/-- The command read from a word numbered as spec/opcode_table.json numbers it. The block has one word length,
72 bits; bits above `nbits` are 0, and a value with a bit at 72 or above is no command word. -/
def decodeTableWord (nbits w : Nat) : Option Instr :=
  if w % 2 ^ nbits < 2 ^ 72 then
    match decode (BitVec.ofNat 72 (w % 2 ^ nbits)) with
    | .ok i    => some i
    | .error _ => none
  else none

end Sys2Proof
end

