-- ==== Sys2Proof/Machine/Bytes.lean ====
section
/-! DEFINITION. Byte sequences and how they travel in bit vectors (spec/00_scope.md R10, spec/20_memory.md R52): byte
`i` of a sequence occupies bits `[8i+7 : 8i]`. -/

namespace Sys2Proof.Machine

/-- `last(k, x)`: the final `min(k, len(x))` bytes, in their order (R10). -/
def lastBytes (k : Nat) (x : List Byte) : List Byte := x.drop (x.length - k)

/-- `LE(x)`: the little-endian reading of a byte sequence (R10, R54). -/
def leNat : List Byte → Nat
  | []      => 0
  | b :: bs => b.toNat + 256 * leNat bs

/-- A byte sequence in a bit vector of `w` bits, byte `i` at bits `[8i+7 : 8i]`, bits above the sequence 0
(R52, R83, R193). -/
def packBytes (w : Nat) : List Byte → BitVec w
  | []      => 0
  | b :: bs => (packBytes w bs <<< 8) ||| b.setWidth w

/-- Byte `i` of a bit vector (R52). -/
def byteAt {w : Nat} (v : BitVec w) (i : Nat) : Byte := v.extractLsb' (8 * i) 8

/-- The first `k` bytes of a bit vector, byte 0 first (R52). -/
def unpackBytes {w : Nat} (k : Nat) (v : BitVec w) : List Byte := (List.range k).map (byteAt v)

/-- The 256 bytes that a 2048-bit port carries (R52, R192). -/
def bytes256Of (v : BitVec 2048) : Bytes256 := Vector.ofFn fun i => byteAt v i.val

/-- The 16 bytes that a 128-bit port carries (R52, R192). -/
def bytes16Of (v : BitVec 128) : Bytes16 := Vector.ofFn fun i => byteAt v i.val

/-- A block from a sequence of exactly 256 bytes (R10). It is applied to no other sequence: every call cuts 256 bytes
or stands behind a test that there are 256. -/
def blockOf (x : List Byte) : Bytes256 := Vector.ofFn fun i => x.getD i.val 0

/-- `MemRead(a, k)`: the `k` bytes of the block buffer at indices `a` to `a+k-1` (R11). -/
def memRead (a k : Nat) (P : List Byte) : List Byte := (P.drop a).take k

/-- `MemWrite(a, k, v)`, with `k` the length of `v`: writes `v` into the block buffer at index `a` (R11). The buffer is
the sequence of its first `n` bytes, so writing at `a = n` appends. -/
def memWrite (a : Nat) (v : List Byte) (P : List Byte) : List Byte :=
  P.take a ++ v ++ P.drop (a + v.length)

end Sys2Proof.Machine
end

