-- ==== Sys2Proof/Config.lean ====
section
/-! DEFINITION. What is fixed for the machine: the parameters of spec/00_scope.md R7, the digest widths, the open
parameter `BACKEND` (R9, spec/45_backend.md R180), and the free values of the registers that an HRESET leaves
unspecified (spec/10_state.md R42). The opaque constants have no body that a proof can see. -/

namespace Sys2Proof

/-- `BLOCK_BYTES` (R7). -/
abbrev Config.blockBytes : Nat := 256

/-- `STATE_BYTES` (R7). -/
abbrev Config.stateBytes : Nat := 256

/-- `TRAIL_BYTES` (R7). -/
abbrev Config.trailBytes : Nat := 16

/-- `SEED_BITS` (R7). -/
abbrev Config.seedBits : Nat := 64

/-- `LEN_BITS` (R7). -/
abbrev Config.lenBits : Nat := 64

/-- `DIGEST_BYTES` (R7). -/
abbrev Config.digestBytes : Nat := 16

/-- The legal values of `digestWidth`, `WIDTHS` = 4, 8 and 16 bytes (R7, R22). -/
inductive Width where
  | w4
  | w8
  | w16
deriving DecidableEq, Repr, Inhabited

/-- A backend (R180): the two pure, total functions the block calls. The lists of `fin` are the partial block
(`Seq(<256)`) and the trailing window (`Seq(<=16)`); a `Mix` or `Fin` that fails or does not answer cannot be written
(R183, R195). -/
structure Backend where
  /-- `Mix(state, block)` (R184). -/
  mix : Bytes256 → Bytes256 → Bytes256
  /-- `Fin(seed, state, partialBlock, trailingWindow, totalLength)` (R185). -/
  fin : U64 → Bytes256 → List Byte → List Byte → U64 → Bytes16

/-- The open parameter `BACKEND.Mix` (R9, R180): uninterpreted, nothing is assumed of it (R190; log 6). -/
opaque Config.mix : Bytes256 → Bytes256 → Bytes256

/-- The open parameter `BACKEND.Fin` (R9, R180): uninterpreted, nothing is assumed of it (R190; log 6). -/
opaque Config.fin : U64 → Bytes256 → List Byte → List Byte → U64 → Bytes16

/-- The one backend of the machine, fixed for the life of the instance (R186). -/
def Config.backend : Backend := ⟨Config.mix, Config.fin⟩

/-! The values of the registers that HRESET leaves unspecified (R42, R230), as free values: the argument counts the
HRESET edges, so that each one may leave other values (log 3). -/

/-- `seed` after the k-th HRESET edge (free value, R42). -/
opaque Config.freeSeed : Nat → U64

/-- `width` after the k-th HRESET edge (free value, R42; a legal width, R20). -/
opaque Config.freeWidth : Nat → Width

/-- `S` after the k-th HRESET edge (free value, R42). -/
opaque Config.freeS : Nat → Bytes256

/-- `P` after the k-th HRESET edge (free value, R42; cut to 255 bytes where it is used, R25). -/
opaque Config.freeP : Nat → List Byte

/-- `T` after the k-th HRESET edge (free value, R42; cut to 16 bytes where it is used, R27). -/
opaque Config.freeT : Nat → List Byte

/-- `L` after the k-th HRESET edge (free value, R42). -/
opaque Config.freeL : Nat → U64

/-- The ghost `stream` after the k-th HRESET edge ("undefined", R42). -/
opaque Config.freeStream : Nat → List Byte

/-- `op_hold` after the k-th HRESET edge (free value, R42). -/
opaque Config.freeOpHold : Nat → BitVec 8

/-- `rsp_hold` after the k-th HRESET edge (free value, R42). -/
opaque Config.freeRspHold : Nat → RspWord

end Sys2Proof
end

