-- ==== Sys2Proof/Machine/State.lean ====
section
/-! DEFINITION. The state of the block as plain data: the architectural state (spec/10_state.md R20), the sequencing
state (R33 to R35), the ghost `stream` (spec/00_scope.md R12), the host's side of the channels (spec/30_encoding.md
R70, R71) and the record of backend calls (R4); the reasons a step can stop; and the state right after HRESET. -/

namespace Sys2Proof.Machine

/-- The six phases of `write_batching_fsm` (R33). -/
inductive Phase where
  /-- no command in progress; a command can be accepted -/
  | idle
  /-- a WRITE is accepting payload bytes into the block buffer -/
  | recv
  /-- the block buffer is full and a `Mix` call is in flight -/
  | fold
  /-- a faulted WRITE is discarding its payload bytes -/
  | drain
  /-- a `Fin` call is in flight -/
  | final
  /-- the response word is waiting to be accepted -/
  | resp
deriving DecidableEq, Repr, Inhabited

/-- One call of the backend with its arguments (R181): part of what can be observed of the block (R4). -/
inductive BackendCall where
  /-- `Mix(state, block)` (R184) -/
  | mix (state block : Bytes256)
  /-- `Fin(seed, state, partialBlock, trailingWindow, totalLength)` (R185) -/
  | fin (seed : U64) (state : Bytes256) (partialBlock trailingWindow : List Byte) (totalLength : U64)
deriving DecidableEq, Repr

/-- The state. The fill counts `n` and `tlen` are the lengths of `P` and `T` (R20). -/
structure State where
  /-- `cfg_valid` (R23) -/
  cfgValid : Bool
  /-- `seed` (R21) -/
  seed     : U64
  /-- `width` (R22) -/
  width    : Width
  /-- the state register (R24) -/
  S        : Bytes256
  /-- the block buffer's `n` bytes, oldest first (R25); bytes beyond `n` do not exist here (R26) -/
  P        : List Byte
  /-- the trailing window's `tlen` bytes, oldest first (R27) -/
  T        : List Byte
  /-- the total length (R28) -/
  L        : U64
  /-- ghost: the bytes written since the last NEW* or RESET (R12); no rule reads it to compute anything -/
  stream   : List Byte
  /-- the state of `write_batching_fsm` (R33) -/
  phase    : Phase
  /-- payload bytes of the current WRITE not yet taken (R34) -/
  rem      : U64
  /-- the opcode of the digest command in progress (R35) -/
  opHold   : BitVec 8
  /-- the response word until the host accepts it (R35) -/
  rspHold  : RspWord
  /-- command words the host presents, oldest first (R70, R71); the head is on `cmd_word` -/
  cmdIn    : List CmdWord
  /-- payload bytes the host presents, oldest first (R51, R61, R82); the head is on `wd_byte` -/
  dataIn   : List Byte
  /-- response words the host has accepted, oldest first (R4, R80) -/
  rspOut   : List RspWord
  /-- the pin `rsp_ready` (R70) -/
  rspReady : Bool
  /-- the pin `rst` (R70, R230) -/
  rst      : Bool
  /-- the backend calls issued, oldest first (R4, R181); nothing reads it to compute anything -/
  calls    : List BackendCall
  /-- how many HRESET edges there have been; read only by the free values of the unspecified registers (log 3) -/
  hresets  : Nat
deriving DecidableEq, Repr

/-- Reasons a step can stop the machine. The spec gives none: each of its exceptions is TAKEN (R210), and waiting for
the host is no stop (R213). These two name phases that no run reaches (log 5). -/
inductive Fault where
  /-- Raised by the FOLD phase (`tick`, `edge`) when the block buffer does not hold exactly 256 bytes; the spec gives
  a `Mix` call on a buffer that is not full no meaning (R26, R192). Safe: the machine stops. -/
  | foldBufferNotFull
  /-- Raised by the FINAL phase (`tick`, `edge`) when `op_hold` is none of the four digest opcodes; the spec gives
  `shape(op_hold, F)` no value there (R163). Safe: the machine stops. -/
  | opHoldNotDigest
deriving DecidableEq, Repr

/-- Reasons an instruction has no meaning. -/
inductive Refusal where
  /-- Raised by `exec` for an instruction that has no meaning yet, by its mnemonic. Safe. No arm raises it. -/
  | notModelled (mnemonic : String)
deriving DecidableEq, Repr

/-- What a command or a step answers. -/
abbrev Result := Host.Outcome State Fault Refusal

/-- 256 bytes of 0x00: `S_0` (R39, R100, R140). -/
def zeroState : Bytes256 := Vector.replicate 256 0

/-- Right after HRESET (R42, R230): `cfg_valid` = 0, `phase` = IDLE, `rem` = 0. The other registers hold no value the
spec gives; the values here are the model's (DESIGN CHOICE, log 1), as are the empty channels (log 2). -/
def State.reset : State where
  cfgValid := false
  seed     := 0
  width    := .w16
  S        := zeroState
  P        := []
  T        := []
  L        := 0
  stream   := []
  phase    := .idle
  rem      := 0
  opHold   := 0
  rspHold  := 0
  cmdIn    := []
  dataIn   := []
  rspOut   := []
  rspReady := true
  rst      := false
  calls    := []
  hresets  := 0

end Sys2Proof.Machine
end

