-- ==== Sys2Proof/Machine/Flags.lean ====
section
/-! DEFINITION. The block's one flag and its exceptions (spec/10_state.md R23, R31; spec/60_exceptions.md R200 to
R208). There are no condition codes, no carry or overflow flag and no sticky error flag (R31): a command's outcome is
the status byte of its response, and `cfg_valid` is written only by HRESET and NEW*. -/

namespace Sys2Proof.Machine

/-- The status of a response (R81, R200): success, or one of the five exceptions. -/
inductive Status where
  | ok
  | illegal
  | notInit
  | precond
  | width
  | lenOvf
deriving DecidableEq, Repr

/-- The status byte (R81, R200); 0x06 to 0xFF are never produced. -/
def Status.code : Status → BitVec 8
  | .ok      => 0x00
  | .illegal => 0x01
  | .notInit => 0x02
  | .precond => 0x03
  | .width   => 0x04
  | .lenOvf  => 0x05

/-- The digest width in bytes (R22). -/
def widthBytes : Width → Nat
  | .w4  => 4
  | .w8  => 8
  | .w16 => 16

/-- `L + len >= 2^64`, computed without truncation (R112, R206). -/
def lenOverflows (s : State) (len : U64) : Bool := 2 ^ 64 ≤ s.L.toNat + len.toNat

/-- `dstLen != 16` (R155, R204). -/
def dstLenBad (dstLen : U64) : Bool := dstLen != 16

/-- SUMINTO needs `width` 16 (R156, R205). -/
def sumIntoWidthBad (s : State) : Bool := widthBytes s.width != 16

/-- SUM64 needs `width` 8 or 16 (R158, R205). -/
def sum64WidthBad (s : State) : Bool := widthBytes s.width < 8

/-- The exception that a decoded command raises on the state before it, if any: the tests of R208 after decoding, in
their order, first match wins. NEW* never faults (R100). -/
def faultOf (i : Instr) (s : State) : Option Status :=
  match i with
  | .new _ | .new64 _ | .new32 _ => none
  | .write len =>
    if s.cfgValid = false then some .notInit
    else if lenOverflows s len then some .lenOvf
    else none
  | .sumInto dstLen =>
    if s.cfgValid = false then some .notInit
    else if dstLenBad dstLen then some .precond
    else if sumIntoWidthBad s then some .width
    else none
  | .sum64 =>
    if s.cfgValid = false then some .notInit
    else if sum64WidthBad s then some .width
    else none
  | .reset | .sum | .sum32 | .size | .blksz =>
    if s.cfgValid = false then some .notInit else none

end Sys2Proof.Machine
end

