-- ==== Sys2Proof/Machine/Operands.lean ====
section
/-! DEFINITION. The operand forms (spec/30_encoding.md R74). The operand of a command is the whole unsigned field of
its word and needs no further reading: a seed, a payload length or a destination length; a reserved operand is settled
at decode (R75). What a WRITE has besides is its payload, the next `len` bytes of the data channel
(spec/20_memory.md R61). -/

namespace Sys2Proof.Machine

/-- All `len` payload bytes stand on the data channel: the atomic WRITE is enabled (R128). -/
def payloadReady (len : U64) (s : State) : Bool := len.toNat ≤ s.dataIn.length

/-- `B`, the next `len` bytes of the data channel (R61, R110). -/
def payloadBytes (len : U64) (s : State) : List Byte := s.dataIn.take len.toNat

/-- The state with the `len` payload bytes taken from the data channel (R57, R61): none is left to take. -/
def takePayload (len : U64) (s : State) : State :=
  { s with dataIn := s.dataIn.drop len.toNat, rem := 0 }

end Sys2Proof.Machine
end

