-- ==== Sys2Proof/Machine/Ops.lean ====
section
/-! DEFINITION. The named operations that commands and the sequencer share: the response (spec/30_encoding.md R79,
R80), taking an exception and its end (spec/60_exceptions.md R210, R212), HRESET (spec/70_reset_and_hazards.md R230,
R231), the datapath's clearing (spec/42_reset.md R140), the fold (spec/45_backend.md R184), and the `Fin` call with
the shaping of its result (spec/43_finalize.md R150, spec/30_encoding.md R83). -/

namespace Sys2Proof.Machine

/-! ### Responses and exceptions -/

/-- A response word: status `[135:128]`, payload `[127:0]` (R79). -/
def responseWord (st : Status) (payload : BitVec 128) : RspWord := st.code ++ payload

/-- `respond(st, pl)` (R11): the command ends and its response word waits in `rsp_hold` (R35, R125). -/
def respond (st : Status) (payload : BitVec 128) (s : State) : State :=
  { s with rspHold := responseWord st payload, phase := .resp }

/-- TAKING AN EXCEPTION (R210): no architectural state changes, nothing is saved, no backend call is made; the response
is `{code, 0}`. A faulted WRITE drains its payload besides (`faultWrite`, R127). -/
def raise (e : Status) (s : State) : State := respond e 0 s

/-- The end of a command, faulted or not: the response word is transferred to the host and the block is in IDLE again
(R104, R125, R210). There is no other return from an exception (R212). -/
def transferResponse (s : State) : State :=
  { s with phase := .idle, rspOut := s.rspOut ++ [s.rspHold] }

/-- Every command but NEW* needs `cfg_valid` = 1, else it raises `NOT_INIT` (R203). -/
def whenConstructed (s : State) (k : Result) : Result :=
  if s.cfgValid = false then .next (raise .notInit s) else k

/-! ### HRESET -/

/-- One rising edge with `rst` = 1 (R230, R231): `cfg_valid`, `phase` and `rem` take their reset values, a command in
progress is abandoned without response, and every other register is left unspecified, here a free value (R42, log 3).
What stands on the host's side of the channels stays there (R231). -/
def hreset (s : State) : State :=
  { s with
    cfgValid := false
    seed     := Config.freeSeed s.hresets
    width    := Config.freeWidth s.hresets
    S        := Config.freeS s.hresets
    P        := (Config.freeP s.hresets).take 255
    T        := (Config.freeT s.hresets).take 16
    L        := Config.freeL s.hresets
    stream   := Config.freeStream s.hresets
    phase    := .idle
    rem      := 0
    opHold   := Config.freeOpHold s.hresets
    rspHold  := Config.freeRspHold s.hresets
    hresets  := s.hresets + 1 }

/-! ### The datapath -/

/-- The datapath as NEW* and RESET leave it (R100, R101, R140): `S` zero, `P` and `T` empty, `L` 0. -/
def clearDatapath (s : State) : State :=
  { s with S := zeroState, P := [], T := [], L := 0, stream := [] }

/-- One fold `S <- Mix(S, block)` (R14, R184), with the call recorded (R181). -/
def foldBlock (bk : Backend) (block : Bytes256) (s : State) : State :=
  { s with S := bk.mix s.S block, calls := s.calls ++ [.mix s.S block] }

/-- The fold of the full block buffer, which it empties: `S <- Mix(S, P[0..255])`, `n <- 0` (R115). -/
def foldBuffer (bk : Backend) (s : State) : State :=
  { foldBlock bk (blockOf (memRead 0 256 s.P)) s with P := [] }

/-- `T <- last(16, T ++ B)`, in the two branches of R114. -/
def slideWindow (T B : List Byte) : List Byte :=
  if 16 ≤ B.length then memRead (B.length - 16) 16 B else lastBytes 16 (T ++ B)

/-! ### Finalization -/

/-- `F = Fin(seed, S, P, T, L)` (R150, R185). -/
def finalize (bk : Backend) (s : State) : Bytes16 := bk.fin s.seed s.S s.P s.T s.L

/-- A `Fin` call issued for the digest command with opcode `op` (R163): recorded, with `op_hold <- op`. -/
def issueFin (op : BitVec 8) (s : State) : State :=
  { s with opHold := op, calls := s.calls ++ [.fin s.seed s.S s.P s.T s.L] }

/-- `pl[8i+7 : 8i] <- F[i]` for the first `k` bytes of the digest, the other bits 0 (R83, R151, R155). -/
def digestBytesPayload (k : Nat) (F : Bytes16) : BitVec 128 := packBytes 128 (F.toList.take k)

/-- `zext_128(LE(F[0..k-1]))` (R83, R157, R159). -/
def digestIntPayload (k : Nat) (F : Bytes16) : BitVec 128 := BitVec.ofNat 128 (leNat (F.toList.take k))

/-- `shape(op_hold, F)` (R83, R163), for the four digest opcodes. -/
def shapeDigest (op : BitVec 8) (width : Width) (F : Bytes16) : Option (BitVec 128) :=
  if op = opcodeOf .sum then some (digestBytesPayload (widthBytes width) F)
  else if op = 0x31 then some (digestBytesPayload 16 F)
  else if op = opcodeOf .sum64 then some (digestIntPayload 8 F)
  else if op = opcodeOf .sum32 then some (digestIntPayload 4 F)
  else none

/-- A digest command that does not fault (R150): one `Fin` call, no architectural change, the response is OK with the
payload that the command shapes from the digest. -/
def digestCommand (bk : Backend) (op : BitVec 8) (shape : Bytes16 → BitVec 128) (s : State) : Result :=
  .next (respond .ok (shape (finalize bk s)) (issueFin op s))

end Sys2Proof.Machine
end

