-- ==== Sys2Proof/Machine/Construct.lean ====
section
/-! DEFINITION. The construction commands NEW, NEW64, NEW32 (spec/40_construct.md). They cannot fault (R100) and are
legal whether or not an accumulator is held (R102). -/

namespace Sys2Proof.Machine

/-- The writes of NEW* (R100): `seed`, `width`, `cfg_valid`, and the datapath as RESET leaves it (R101). -/
def construct (width : Width) (seed : U64) (s : State) : State :=
  { clearDatapath s with seed := seed, width := width, cfgValid := true }

/-- NEW (R100): width 16. -/
def execNew (seed : U64) (s : State) : Result := .next (respond .ok 0 (construct .w16 seed s))

/-- NEW64 (R100): width 8. -/
def execNew64 (seed : U64) (s : State) : Result := .next (respond .ok 0 (construct .w8 seed s))

/-- NEW32 (R100): width 4. -/
def execNew32 (seed : U64) (s : State) : Result := .next (respond .ok 0 (construct .w4 seed s))

end Sys2Proof.Machine
end

