-- ==== Sys2Proof/Machine/Digest.lean ====
section
/-! DEFINITION. The digest commands SUM, SUMINTO, SUM64, SUM32 (spec/43_finalize.md), each over a backend and with the
machine's own backend. They change no architectural state (R150). -/

namespace Sys2Proof.Machine

/-- SUM (R151): the digest cut to the configured width (R152). -/
def sumCommand (bk : Backend) (s : State) : Result :=
  whenConstructed s (digestCommand bk 0x30 (digestBytesPayload (widthBytes s.width)) s)

/-- SUMINTO (R155, R156): all 16 bytes, for a 16-byte destination on a width-16 accumulator. -/
def sumIntoCommand (bk : Backend) (dstLen : U64) (s : State) : Result :=
  whenConstructed s
    (if dstLenBad dstLen then .next (raise .precond s)
     else if sumIntoWidthBad s then .next (raise .width s)
     else digestCommand bk 0x31 (digestBytesPayload 16) s)

/-- SUM64 (R157, R158): the first 8 digest bytes as an integer. -/
def sum64Command (bk : Backend) (s : State) : Result :=
  whenConstructed s
    (if sum64WidthBad s then .next (raise .width s)
     else digestCommand bk 0x32 (digestIntPayload 8) s)

/-- SUM32 (R159): the first 4 digest bytes as an integer; legal at every width. -/
def sum32Command (bk : Backend) (s : State) : Result :=
  whenConstructed s (digestCommand bk 0x33 (digestIntPayload 4) s)

/-- SUM (R151). -/
def execSum (s : State) : Result := sumCommand Config.backend s

/-- SUMINTO (R155). -/
def execSumInto (dstLen : U64) (s : State) : Result := sumIntoCommand Config.backend dstLen s

/-- SUM64 (R157). -/
def execSum64 (s : State) : Result := sum64Command Config.backend s

/-- SUM32 (R159). -/
def execSum32 (s : State) : Result := sum32Command Config.backend s

end Sys2Proof.Machine
end

