-- ==== Sys2Proof/Machine/Query.lean ====
section
/-! DEFINITION. The query commands SIZE and BLKSZ (spec/44_query.md). -/

namespace Sys2Proof.Machine

/-- `zext_128(width)` (R83, R170). -/
def sizeValue (width : Width) : BitVec 128 := BitVec.ofNat 128 (widthBytes width)

/-- `zext_128(256)` (R83, R171). -/
def blockSizeValue : BitVec 128 := BitVec.ofNat 128 Config.blockBytes

/-- SIZE (R170). -/
def execSize (s : State) : Result := whenConstructed s (.next (respond .ok (sizeValue s.width) s))

/-- BLKSZ (R171); it too needs an accumulator (R172). -/
def execBlksz (s : State) : Result := whenConstructed s (.next (respond .ok blockSizeValue s))

end Sys2Proof.Machine
end

