-- ==== Sys2Proof/Machine/Reset.lean ====
section
/-! DEFINITION. The RESET command (spec/42_reset.md): the source's `reset()`, not the hardware reset. -/

namespace Sys2Proof.Machine

/-- RESET (R140): the datapath is cleared; `seed`, `width` and `cfg_valid` survive. -/
def execReset (s : State) : Result := whenConstructed s (.next (respond .ok 0 (clearDatapath s)))

end Sys2Proof.Machine
end

