-- ==== Sys2Proof/Machine/Write.lean ====
section
/-! DEFINITION. The WRITE command at the operation level (spec/41_write.md R110 to R117, R127, R128): the five steps
of the source on the payload `B`, and the command around them. -/

namespace Sys2Proof.Machine

/-- Step 1 (R111): `L <- L + len`; exact, since R112 has refused an overflow. -/
def writeStep1 (len : U64) (s : State) : State := { s with L := s.L + len }

/-- Step 2 (R114): the trailing window. -/
def writeStep2 (B : List Byte) (s : State) : State := { s with T := slideWindow s.T B }

/-- Step 3 (R115): top up a partly filled buffer, and fold it if that fills it. The second component is the input that
is left, from the cursor on. -/
def writeStep3 (bk : Backend) (B : List Byte) (s : State) : State × List Byte :=
  if 0 < s.P.length then
    let k := min B.length (256 - s.P.length)
    let s1 := { s with P := memWrite s.P.length (memRead 0 k B) s.P }
    (if s1.P.length = 256 then foldBuffer bk s1 else s1, B.drop k)
  else (s, B)

/-- Step 4 (R116): while at least 256 bytes of input remain, fold them directly. `fuel` bounds the iterations. -/
def writeStep4 (bk : Backend) : Nat → List Byte → State → State × List Byte
  | 0, B, s => (s, B)
  | fuel + 1, B, s =>
    if 256 ≤ B.length then writeStep4 bk fuel (B.drop 256) (foldBlock bk (blockOf (B.take 256)) s)
    else (s, B)

/-- Step 5 (R117): a non-empty remainder becomes the content of the buffer; an empty one leaves it as it is
(spec/90_conflicts.md C1). -/
def writeStep5 (B : List Byte) (s : State) : State :=
  if 0 < B.length then { s with P := B } else s

/-- Steps 3 to 5 on the payload: whole blocks go into `S`, the rest into `P`. Step 4 makes
`floor((len - cur) / 256)` iterations (R116). -/
def absorbPayload (bk : Backend) (B : List Byte) (s : State) : State :=
  let r3 := writeStep3 bk B s
  let r4 := writeStep4 bk (r3.2.length / 256) r3.2 r3.1
  writeStep5 r4.2 r4.1

/-- The five steps of a WRITE of `len` bytes `B`, and the ghost `stream <- stream ++ B` (R110). -/
def writePayload (bk : Backend) (len : U64) (B : List Byte) (s : State) : State :=
  let t := absorbPayload bk B (writeStep2 B (writeStep1 len s))
  { t with stream := t.stream ++ B }

/-- A WRITE that raises `e` (R127): with its payload there, the payload is taken and discarded and the exception is
taken; with the payload not complete, the block is in DRAIN, as on acceptance (R125, R128). -/
def faultWrite (e : Status) (len : U64) (s : State) : State :=
  if payloadReady len s then raise e (takePayload len s)
  else { s with rspHold := responseWord e 0, rem := len, phase := .drain }

/-- A WRITE that does not fault but whose payload is not complete: the block is in RECV, as on acceptance (R125, R128),
and the payload is absorbed byte by byte as it arrives (R124). -/
def beginReceive (len : U64) (s : State) : State :=
  { writeStep1 len s with rspHold := responseWord .ok 0, rem := len, phase := .recv }

/-- WRITE (R110, R127, R128) over a backend. -/
def writeCommand (bk : Backend) (len : U64) (s : State) : Result :=
  if s.cfgValid = false then .next (faultWrite .notInit len s)
  else if lenOverflows s len then .next (faultWrite .lenOvf len s)
  else if payloadReady len s then
    .next (respond .ok 0 (writePayload bk len (payloadBytes len s) (takePayload len s)))
  else .next (beginReceive len s)

/-- WRITE (R110). -/
def execWrite (len : U64) (s : State) : Result := writeCommand Config.backend len s

end Sys2Proof.Machine
end

