-- ==== Sys2Proof/Machine/Dispatch.lean ====
section
/-! DEFINITION. One arm per command (spec/30_encoding.md R73). -/

namespace Sys2Proof.Machine

def exec (i : Instr) (s : State) : Host.Outcome State Fault Refusal :=
  match i with
  | .new seed => Sys2Proof.Machine.execNew seed s
  | .new64 seed => Sys2Proof.Machine.execNew64 seed s
  | .new32 seed => Sys2Proof.Machine.execNew32 seed s
  | .write len => Sys2Proof.Machine.execWrite len s
  | .reset => Sys2Proof.Machine.execReset s
  | .sum => Sys2Proof.Machine.execSum s
  | .sumInto dstLen => Sys2Proof.Machine.execSumInto dstLen s
  | .sum64 => Sys2Proof.Machine.execSum64 s
  | .sum32 => Sys2Proof.Machine.execSum32 s
  | .size => Sys2Proof.Machine.execSize s
  | .blksz => Sys2Proof.Machine.execBlksz s

end Sys2Proof.Machine
end

