-- ==== Sys2Proof/Machine/Sequencer.lean ====
section
/-! DEFINITION. `write_batching_fsm` at the interface level (spec/41_write.md R124, R125): what each event does in each
phase. The operation level (`exec`) does a command in one step; this machine does it transfer by transfer, and R126
says that they agree. -/

namespace Sys2Proof.Machine

/-- IDLE, a command that faults is accepted (R125): a WRITE that announces payload goes to DRAIN, every other command
to RESP. -/
def acceptFaulted (e : Status) (i : Instr) (s : State) : State :=
  match i with
  | .write len =>
    if len = 0 then { raise e s with rem := len }
    else { s with rspHold := responseWord e 0, rem := len, phase := .drain }
  | .new _ | .new64 _ | .new32 _ | .reset | .sum | .sumInto _ | .sum64 | .sum32 | .size | .blksz => raise e s

/-- IDLE, a digest command is accepted (R125, R163): the `Fin` call is issued and awaited. -/
def acceptDigest (op : BitVec 8) (s : State) : State := { issueFin op s with phase := .final }

/-- IDLE, a command that does not fault is accepted (R104, R125, R142, R163, R173). -/
def acceptLegal (i : Instr) (s : State) : State :=
  match i with
  | .new seed   => respond .ok 0 (construct .w16 seed s)
  | .new64 seed => respond .ok 0 (construct .w8 seed s)
  | .new32 seed => respond .ok 0 (construct .w4 seed s)
  | .write len  =>
    if len = 0 then { respond .ok 0 (writeStep1 len s) with rem := len } else beginReceive len s
  | .reset      => respond .ok 0 (clearDatapath s)
  | .sum        => acceptDigest 0x30 s
  | .sumInto _  => acceptDigest 0x31 s
  | .sum64      => acceptDigest 0x32 s
  | .sum32      => acceptDigest 0x33 s
  | .size       => respond .ok (sizeValue s.width) s
  | .blksz      => respond .ok blockSizeValue s

/-- IDLE, a command transfer (R125): decode, test for exceptions in the order of R208, and begin. -/
def acceptWord (w : CmdWord) (s : State) : State :=
  match decode w with
  | .error _ => raise .illegal s
  | .ok i    =>
    match faultOf i s with
    | some e => acceptFaulted e i s
    | none   => acceptLegal i s

/-- RECV, a byte transfer: `ABSORB(b)` up to the fold (R124). The buffer's count may reach 256 here (R113). -/
def absorbByte (b : Byte) (s : State) : State :=
  { s with
    P      := s.P ++ [b]
    T      := if s.T.length < 16 then s.T ++ [b] else s.T.drop 1 ++ [b]
    rem    := s.rem - 1
    stream := s.stream ++ [b] }

/-- RECV, a byte transfer, with the phase that follows (R125); entering FOLD issues the `Mix` call (R192). -/
def receiveByte (b : Byte) (s : State) : State :=
  let t := absorbByte b s
  if t.P.length = 256 then { t with phase := .fold, calls := t.calls ++ [.mix t.S (blockOf t.P)] }
  else if t.rem = 0 then { t with phase := .resp }
  else t

/-- FOLD, the `Mix` result (R125): `S <- s'`, `n <- 0`. -/
def takeMixResult (r : Bytes256) (s : State) : State :=
  { s with S := r, P := [], phase := if s.rem = 0 then .resp else .recv }

/-- DRAIN, a byte transfer: the byte is discarded (R125, R127). -/
def drainByte (s : State) : State :=
  { s with rem := s.rem - 1, phase := if s.rem - 1 = 0 then .resp else .drain }

/-- FINAL, the `Fin` result (R125, R163): `rsp_hold <- {0x00, shape(op_hold, F)}`. -/
def takeFinResult (F : Bytes16) (s : State) : Result :=
  match shapeDigest s.opHold s.width F with
  | some payload => .next (respond .ok payload s)
  | none         => .fault .opHoldNotDigest

/-- One event of the sequencer, driven by the channels of the state and by a backend that answers at once (R183, R194):
the next transfer or backend result if there is one, nothing while the host is awaited (R128, R244). -/
def tick (bk : Backend) (s : State) : Result :=
  if s.rst then .next (hreset s)
  else
    match s.phase with
    | .idle =>
      match s.cmdIn with
      | []      => .next s
      | w :: ws => .next (acceptWord w { s with cmdIn := ws })
    | .recv =>
      match s.dataIn with
      | []      => .next s
      | b :: bs => .next (receiveByte b { s with dataIn := bs })
    | .fold =>
      if s.P.length = 256 then .next (takeMixResult (bk.mix s.S (blockOf s.P)) s)
      else .fault .foldBufferNotFull
    | .drain =>
      match s.dataIn with
      | []      => .next s
      | _ :: bs => .next (drainByte { s with dataIn := bs })
    | .final => takeFinResult (finalize bk s) s
    | .resp => if s.rspReady then .next (transferResponse s) else .next s

/-- `k` events, stopping at a fault. -/
def ticks (bk : Backend) : Nat → State → Result
  | 0, s => .next s
  | k + 1, s =>
    match tick bk s with
    | .next t    => ticks bk k t
    | .fault f   => .fault f
    | .refused r => .refused r

end Sys2Proof.Machine
end

