-- ==== Sys2Proof/Machine/Fetch.lean ====
section
/-! DEFINITION. Taking the next command word from the command channel and running it (spec/20_memory.md R60,
spec/30_encoding.md R75, R76). There is no program counter and no memory of commands (spec/10_state.md R30). -/

namespace Sys2Proof.Machine

/-- An accepted word: the command it decodes to is executed; an `ILLEGAL` word takes that exception (R76, R201). -/
def runWord (w : CmdWord) (s : State) : Result :=
  match decode w with
  | .ok i    => exec i s
  | .error _ => .next (raise .illegal s)

/-- One step of the block. HRESET comes before everything (R231). In IDLE the oldest presented command word is taken and
executed in one step, the operation level (R3, R60); with no word presented the block waits. In every other phase the
sequencer makes its next event (R125): the response transfer in RESP, the payload of a WRITE that began short of it in
RECV, FOLD and DRAIN (R128), the `Fin` result in FINAL. -/
def blockStep (s : State) : Result :=
  if s.rst then .next (hreset s)
  else
    match s.phase with
    | .idle =>
      match s.cmdIn with
      | []      => .next s
      | w :: ws => runWord w { s with cmdIn := ws }
    | .recv | .fold | .drain | .final | .resp => tick Config.backend s

/-- The state with a command word presented first on the command channel of an idle block that is not held in
HRESET. -/
def presentWord (w : CmdWord) (s : State) : State :=
  { s with cmdIn := w :: s.cmdIn, phase := .idle, rst := false }

end Sys2Proof.Machine
end

