-- ==== Sys2Proof/Machine/Step.lean ====
section
/-! DEFINITION. The step of the machine, and the placing of an instruction where the step takes its next one. -/

namespace Sys2Proof.Machine

/-- One step of the block (`blockStep`). -/
def step (s : State) : Host.Outcome State Fault Refusal := blockStep s

/-- The state with the command word of `nbits` bits `w` (bits above them 0) presented as the next command. -/
def State.withFetchWord (s : State) (nbits w : Nat) : State :=
  presentWord (BitVec.ofNat 72 (w % 2 ^ nbits)) s

end Sys2Proof.Machine
end

