-- ==== Sys2Proof/Machine/Environment.lean ====
section
/-! DEFINITION. What the host may do between steps (spec/70_reset_and_hazards.md R249): present command words and
payload bytes, raise or lower `rsp_ready` and `rst`, and clear the data channel before a new start (R234). A word or
byte once presented stays as it is until it is transferred (spec/30_encoding.md R71): presenting only appends. -/

namespace Sys2Proof.Machine

/-- A host action (R249). -/
inductive HostAction where
  /-- present a command word, after those already presented -/
  | sendCommand (w : CmdWord)
  /-- present a payload byte, after those already presented; early bytes wait (R61) -/
  | sendByte (b : Byte)
  /-- drive `rsp_ready`: the host may delay a response (R244) -/
  | setRspReady (ready : Bool)
  /-- drive `rst`: the host may assert HRESET at any time (R231) -/
  | setRst (rst : Bool)
  /-- clear the data channel, as a start-up after HRESET asks of the host (R234 step 1) -/
  | drainData
deriving DecidableEq, Repr

/-- The state after a host action; only the host's side of the channels changes. -/
def hostAct (a : HostAction) (s : State) : State :=
  match a with
  | .sendCommand w     => { s with cmdIn := s.cmdIn ++ [w] }
  | .sendByte b        => { s with dataIn := s.dataIn ++ [b] }
  | .setRspReady ready => { s with rspReady := ready }
  | .setRst rst        => { s with rst := rst }
  | .drainData         => { s with dataIn := [] }

/-- Host actions in order. -/
def hostActs (as : List HostAction) (s : State) : State := as.foldl (fun t a => hostAct a t) s

end Sys2Proof.Machine
end

