-- ==== Sys2Proof/Machine/Asm.lean ====
section
/-! DEFINITION. The host's side of the command set (spec/30_encoding.md R90 to R93): assembler lines, the
pseudo-instructions and their expansions, and the reading of a response. Nothing here is in the block. -/

namespace Sys2Proof.Machine

/-- A line of assembler text (R90): a command with its payload bytes, or a raw word. -/
inductive AsmLine where
  | command (i : Instr) (payload : List Byte)
  | word (w : CmdWord)
deriving DecidableEq, Repr

/-- A line is well formed when its payload has the stated length (R90: "exactly <len> bytes follow the colon"). -/
def AsmLine.wf : AsmLine → Bool
  | .command i payload => i.wf && i.payloadMatches payload
  | .word _            => true

/-- The command word of a line (R90). -/
def AsmLine.encoded : AsmLine → CmdWord
  | .command i _ => encode i
  | .word w      => w

/-- The payload bytes of a line, first listed first transferred (R90). -/
def AsmLine.bytes : AsmLine → List Byte
  | .command _ payload => payload
  | .word _            => []

/-- What the host does for a line: it presents the word, and the payload bytes. -/
def AsmLine.actions (l : AsmLine) : List HostAction :=
  .sendCommand l.encoded :: l.bytes.map .sendByte

/-- The state with the lines of a program presented. -/
def presentLines (ls : List AsmLine) (s : State) : State := hostActs (ls.flatMap AsmLine.actions) s

/-- `WRITE len(data) : data`. -/
def writeLine (data : List Byte) : AsmLine := .command (.write (BitVec.ofNat 64 data.length)) data

/-- `CHECKSUM seed, data` (R92). -/
def checksumLines (seed : U64) (data : List Byte) : List AsmLine :=
  [.command (.new seed) [], writeLine data, .command .sum []]

/-- `CHECKSUM64 seed, data` (R92). -/
def checksum64Lines (seed : U64) (data : List Byte) : List AsmLine :=
  [.command (.new64 seed) [], writeLine data, .command .sum64 []]

/-- `CHECKSUM32 seed, data` (R92). -/
def checksum32Lines (seed : U64) (data : List Byte) : List AsmLine :=
  [.command (.new32 seed) [], writeLine data, .command .sum32 []]

/-- `status`, bits `[135:128]` of a response (R79). -/
def rspStatus (r : RspWord) : BitVec 8 := r.extractLsb' 128 8

/-- `payload`, bits `[127:0]` of a response (R79). -/
def rspPayload (r : RspWord) : BitVec 128 := r.extractLsb' 0 128

/-- `SUM existing` (R91): the host appends the digest bytes `F[0..width-1]` of the response to its prefix. -/
def sumExisting (existing : List Byte) (width : Width) (r : RspWord) : List Byte :=
  existing ++ unpackBytes (widthBytes width) (rspPayload r)

/-- A hexadecimal digit. -/
def hexDigit (d : BitVec 4) : Char :=
  (['0', '1', '2', '3', '4', '5', '6', '7', '8', '9', 'A', 'B', 'C', 'D', 'E', 'F']).getD d.toNat '0'

/-- A bit vector as `k` hexadecimal digits, most significant first. -/
def hexText {w : Nat} (k : Nat) (v : BitVec w) : List Char :=
  (List.range k).map fun i => hexDigit (v.extractLsb' (4 * (k - 1 - i)) 4)

/-- The encoded form of a line: its word as 18 hexadecimal digits, opcode first (R90). -/
def wordText (w : CmdWord) : List Char := hexText 18 w

/-- The written form of a response (R90): status, an underscore, payload. -/
def responseText (r : RspWord) : List Char := hexText 2 (rspStatus r) ++ '_' :: hexText 32 (rspPayload r)

end Sys2Proof.Machine
end

