-- ==== Sys2Proof/Machine/Ports.lean ====
section
/-! DEFINITION. The ports of the block and one rising edge of `clk` (spec/30_encoding.md R70, R71; spec/45_backend.md
R192 to R194; spec/70_reset_and_hazards.md R230). A `valid` bit and the word beside it are one `Option`: the word has a
value exactly while `valid` is 1. -/

namespace Sys2Proof.Machine

/-- The `mix_req_*` ports while `mix_req_valid` is 1 (R192). -/
structure MixRequest where
  state : BitVec 2048
  block : BitVec 2048
deriving DecidableEq, Repr

/-- The `fin_req_*` ports while `fin_req_valid` is 1 (R192). -/
structure FinRequest where
  seed         : U64
  state        : BitVec 2048
  partialBlock : BitVec 2048
  n            : BitVec 8
  trailing     : BitVec 128
  tlen         : BitVec 5
  len          : U64
deriving DecidableEq, Repr

/-- What the block drives (R70, R192). -/
structure OutPins where
  cmdReady : Bool
  wdReady  : Bool
  rsp      : Option RspWord
  mixReq   : Option MixRequest
  finReq   : Option FinRequest
deriving DecidableEq, Repr

/-- What the block samples at a rising edge (R70, R192). -/
structure InPins where
  rst      : Bool
  cmd      : Option CmdWord
  wd       : Option Byte
  rspReady : Bool
  mixRsp   : Option (BitVec 2048)
  finRsp   : Option (BitVec 128)
deriving DecidableEq, Repr

/-- The `Mix` request of a state (R192): `S[0..255]` and the full block buffer. -/
def mixRequestOf (s : State) : MixRequest :=
  { state := packBytes 2048 s.S.toList
    block := packBytes 2048 s.P }

/-- The `Fin` request of a state (R163, R192): the bytes at index `n` and above, and at `tlen` and above, are driven to
0 (R193). -/
def finRequestOf (s : State) : FinRequest :=
  { seed         := s.seed
    state        := packBytes 2048 s.S.toList
    partialBlock := packBytes 2048 s.P
    n            := BitVec.ofNat 8 s.P.length
    trailing     := packBytes 128 s.T
    tlen         := BitVec.ofNat 5 s.T.length
    len          := s.L }

/-- The outputs as a function of `rst` and the state (R70, R192, R230); `ready` never depends on `valid` (R71). -/
def outputs (rst : Bool) (s : State) : OutPins :=
  { cmdReady := !rst && (s.phase == .idle)
    wdReady  := !rst && (s.phase == .recv || s.phase == .drain)
    rsp      := if rst = false ∧ s.phase = .resp then some s.rspHold else none
    mixReq   := if rst = false ∧ s.phase = .fold then some (mixRequestOf s) else none
    finReq   := if rst = false ∧ s.phase = .final then some (finRequestOf s) else none }

/-- One rising edge of `clk` (R71, R125, R194, R230): HRESET, or the one transfer or result the phase awaits if its
`valid` is there, or nothing. The words come from the pins; the channels of the state are not read. -/
def edge (i : InPins) (s : State) : Result :=
  if i.rst then .next (hreset s)
  else
    match s.phase with
    | .idle =>
      match i.cmd with
      | none   => .next s
      | some w => .next (acceptWord w s)
    | .recv =>
      match i.wd with
      | none   => .next s
      | some b => .next (receiveByte b s)
    | .fold =>
      if s.P.length = 256 then
        match i.mixRsp with
        | none   => .next s
        | some v => .next (takeMixResult (bytes256Of v) s)
      else .fault .foldBufferNotFull
    | .drain =>
      match i.wd with
      | none   => .next s
      | some _ => .next (drainByte s)
    | .final =>
      match i.finRsp with
      | none   => .next s
      | some v => takeFinResult (bytes16Of v) s
    | .resp => if i.rspReady then .next (transferResponse s) else .next s

/-- The backend as a unit on the ports: the answer to a `Mix` request (R194). -/
def answerMix (bk : Backend) (r : MixRequest) : BitVec 2048 :=
  packBytes 2048 (bk.mix (bytes256Of r.state) (bytes256Of r.block)).toList

/-- The backend as a unit on the ports: the answer to a `Fin` request, whose `n` and `tlen` say how many bytes are valid
(R193, R194). -/
def answerFin (bk : Backend) (r : FinRequest) : BitVec 128 :=
  packBytes 128
    (bk.fin r.seed (bytes256Of r.state) (unpackBytes r.n.toNat r.partialBlock)
      (unpackBytes r.tlen.toNat r.trailing) r.len).toList

/-- The inputs that the channels of the state and a backend answering in the same cycle (R194) put on the pins. -/
def drivePins (bk : Backend) (s : State) : InPins :=
  { rst      := s.rst
    cmd      := s.cmdIn.head?
    wd       := s.dataIn.head?
    rspReady := s.rspReady
    mixRsp   := (outputs s.rst s).mixReq.map (answerMix bk)
    finRsp   := (outputs s.rst s).finReq.map (answerFin bk) }

/-- The host's side after an edge: what was presented on a channel whose `ready` was 1 has been transferred (R71). -/
def afterTransfers (s : State) : State :=
  { s with
    cmdIn  := if (outputs s.rst s).cmdReady then s.cmdIn.tail else s.cmdIn
    dataIn := if (outputs s.rst s).wdReady then s.dataIn.tail else s.dataIn }

end Sys2Proof.Machine
end

