-- ==== Sys2Proof/Machine/Run.lean ====
section
/-! DEFINITION. Runs (spec/70_reset_and_hazards.md R246): finite sequences of host actions with the steps of the block
between them, the commands sent in a run, and when a run has ended. -/

namespace Sys2Proof.Machine

/-- One event of a run: a host action (R249), or one step of the block. An HRESET is `setRst true` with a step before
`rst` is 0 again (R230); a response is accepted at a step with `rsp_ready` 1 (R80). -/
inductive RunEvent where
  | host (a : HostAction)
  | step
deriving DecidableEq, Repr

/-- One event, the block's step being `f`: `step` at the operation level, `tick bk` at the interface level (R3). -/
def runEvent (f : State → Result) (e : RunEvent) (s : State) : Result :=
  match e with
  | .host a => .next (hostAct a s)
  | .step   => f s

/-- The events of a run in order, stopping where the block stops. -/
def runFrom (f : State → Result) : List RunEvent → State → Result
  | [], s => .next s
  | e :: es, s =>
    match runEvent f e s with
    | .next t    => runFrom f es t
    | .fault r   => .fault r
    | .refused r => .refused r

/-- A run of the machine. -/
def run (es : List RunEvent) (s : State) : Result := runFrom step es s

/-- Whether an event sends a command word. -/
def RunEvent.isSend : RunEvent → Bool
  | .host (.sendCommand _) => true
  | .host (.sendByte _) | .host (.setRspReady _) | .host (.setRst _) | .host .drainData | .step => false

/-- The number of commands the host sends in a run. -/
def commandsSent (es : List RunEvent) : Nat := es.countP RunEvent.isSend

/-- The number of commands in progress: one, but in IDLE none (R33, R60). -/
def State.commandsInProgress (s : State) : Nat :=
  match s.phase with
  | .idle => 0
  | .recv | .fold | .drain | .final | .resp => 1

/-- The commands that stand before their response in a state: those presented, and the one in progress (R60, R80). -/
def State.commandsOpen (s : State) : Nat := s.cmdIn.length + s.commandsInProgress

/-- The run `es` from `s` to `t` has ended: every command sent, those open at its start among them, has had its response
accepted (R246). A command that HRESET abandons has no response (R231), so a run that abandons one never ends: the
rule's words, read literally (DEDUCED, log 16). Nothing is said of bytes left on the data channel, of time, or of `S`,
`P`, `T`, `L` (R246). -/
def runEnded (s : State) (es : List RunEvent) (t : State) : Bool :=
  t.rspOut.length == s.rspOut.length + s.commandsOpen + commandsSent es

/-- A backend call is outstanding: issued, and its result awaited (R192, R194). -/
def State.callOutstanding (s : State) : Bool := s.phase == .fold || s.phase == .final

end Sys2Proof.Machine
end

