-- ==== Sys2Proof/Safety.lean ====
section
/-! DEFINITION. The terms that claims are stated in: the architectural view of a state, runs of commands at the
operation level, the content that a stream gives the datapath (spec/10_state.md R36 to R41), the invariant of the
machine, waiting (spec/60_exceptions.md R213), and what cannot be observed (R42). -/

namespace Sys2Proof.Machine

/-! ### Views of a state -/

/-- The architectural state, the seven rows of R20. -/
structure Arch where
  cfgValid : Bool
  seed     : U64
  width    : Width
  S        : Bytes256
  P        : List Byte
  T        : List Byte
  L        : U64
deriving DecidableEq, Repr

/-- The architectural state of a state (R20). -/
def State.arch (s : State) : Arch := ⟨s.cfgValid, s.seed, s.width, s.S, s.P, s.T, s.L⟩

/-- The buffers are within their bounds at a command boundary (R25, R27): `n <= 255`, `tlen <= 16`. -/
def State.buffersBounded (s : State) : Prop := s.P.length < 256 ∧ s.T.length ≤ 16

/-- A command boundary with a word presented that the block will take at its next step: IDLE, not in HRESET, the word
first on the channel, and, if it is a WRITE, its payload there (R60, R128). -/
def State.readyFor (s : State) (w : CmdWord) (ws : List CmdWord) : Prop :=
  s.rst = false ∧ s.phase = .idle ∧ s.cmdIn = w :: ws ∧
    ∀ len, decode w = .ok (.write len) → len.toNat ≤ s.dataIn.length

/-- Commands whose response carries a digest (R150). -/
def isDigestCommand : Instr → Bool
  | .sum | .sumInto _ | .sum64 | .sum32 => true
  | .new _ | .new64 _ | .new32 _ | .write _ | .reset | .size | .blksz => false

/-- NEW, NEW64 and NEW32. -/
def isConstruct : Instr → Bool
  | .new _ | .new64 _ | .new32 _ => true
  | .write _ | .reset | .sum | .sumInto _ | .sum64 | .sum32 | .size | .blksz => false

/-- The payload of a command stands on the data channel (R128); only a WRITE has one. -/
def payloadThere (i : Instr) (s : State) : Prop := i.payloadLength ≤ s.dataIn.length

/-- The number of `Mix` calls in a record (R248). -/
def mixCalls (cs : List BackendCall) : Nat :=
  (cs.filter fun c => match c with | .mix _ _ => true | .fin _ _ _ _ _ => false).length

/-- The number of `Fin` calls in a record (R248). -/
def finCalls (cs : List BackendCall) : Nat :=
  (cs.filter fun c => match c with | .mix _ _ => false | .fin _ _ _ _ _ => true).length

/-! ### Runs of commands at the operation level -/

/-- Commands executed one after another, each response accepted before the next command (R60, R80). -/
def runCommands : List Instr → State → Result
  | [], s => .next s
  | i :: is, s =>
    match exec i s with
    | .next t    => runCommands is (transferResponse t)
    | .fault f   => .fault f
    | .refused r => .refused r

/-- `WRITE len(c) : c` for a byte sequence `c`. -/
def writeOf (c : List Byte) : Instr := .write (BitVec.ofNat 64 c.length)

/-! ### What a stream gives the datapath -/

/-- `q` folds of consecutive 256-byte blocks of `X`, from a state (R118). -/
def foldFrom (bk : Backend) : Nat → Bytes256 → List Byte → Bytes256
  | 0, S, _ => S
  | q + 1, S, X => foldFrom bk q (bk.mix S (blockOf (X.take 256))) (X.drop 256)

/-- The `Mix` calls of those folds, in order (R118). -/
def foldCalls (bk : Backend) : Nat → Bytes256 → List Byte → List BackendCall
  | 0, _, _ => []
  | q + 1, S, X =>
    .mix S (blockOf (X.take 256)) :: foldCalls bk q (bk.mix S (blockOf (X.take 256))) (X.drop 256)

/-- `fold(stream)` (R39): every whole block of the stream folded in order, from the all-zero state. -/
def foldStream (bk : Backend) (stream : List Byte) : Bytes256 :=
  foldFrom bk (stream.length / 256) zeroState stream

/-- The final `L mod 256` bytes of a stream (R38). -/
def streamRest (stream : List Byte) : List Byte := lastBytes (stream.length % 256) stream

/-- The digest of a stream under a seed, from the stream alone (R39, R40, R150). -/
def digestOf (bk : Backend) (seed : U64) (stream : List Byte) : Bytes16 :=
  bk.fin seed (foldStream bk stream) (streamRest stream) (lastBytes 16 stream) (BitVec.ofNat 64 stream.length)

/-! ### The invariant -/

/-- The bytes the ghost `stream` still lacks of `L`: step 1 of a WRITE has counted its whole payload on acceptance
(R125), the bytes arrive one by one. -/
def bytesOwed (s : State) : Nat := if s.phase = .recv ∨ s.phase = .fold then s.rem.toNat else 0

/-- The folds made so far: in FOLD the block that fills the buffer has not been folded yet. -/
def foldsMade (s : State) : Nat :=
  if s.phase = .fold then s.stream.length / 256 - 1 else s.stream.length / 256

/-- R36 to R40, at every step of the sequencer and not only at command boundaries. -/
structure DatapathInv (bk : Backend) (s : State) : Prop where
  /-- R36 -/
  length  : s.L.toNat = s.stream.length + bytesOwed s
  /-- R37, R38 -/
  buffer  : s.P = s.stream.drop (256 * foldsMade s)
  /-- R39 -/
  folded  : s.S = foldFrom bk (foldsMade s) zeroState s.stream
  /-- R40 -/
  window  : s.T = lastBytes 16 s.stream

/-- The invariant of the machine: the phases' own facts (R33 to R35, R125), the bounds of the buffers (R25, R27, R113),
and, once an accumulator is constructed, the content of the datapath (R36 to R40). -/
structure Inv (bk : Backend) (s : State) : Prop where
  /-- R25, R113: the count is 256 in FOLD and below 256 everywhere else -/
  bufferFull    : s.phase = .fold → s.P.length = 256
  bufferNotFull : s.phase ≠ .fold → s.P.length < 256
  /-- R27 -/
  windowBound   : s.T.length ≤ 16
  /-- R34: `rem` is 0 when no payload is awaited, and not 0 while a byte is -/
  remZero       : s.phase = .idle ∨ s.phase = .final ∨ s.phase = .resp → s.rem = 0
  remNotZero    : s.phase = .recv ∨ s.phase = .drain → s.rem ≠ 0
  /-- R203: payload is received and the backend called only for a constructed accumulator -/
  constructed   : s.phase = .recv ∨ s.phase = .fold ∨ s.phase = .final → s.cfgValid = true
  /-- R35, R163: in FINAL `op_hold` is one of the four digest opcodes -/
  digestHeld    : s.phase = .final → (shapeDigest s.opHold s.width (finalize bk s)).isSome
  /-- R36 to R40 -/
  datapath      : s.cfgValid = true → DatapathInv bk s

/-! ### Waiting -/

/-- The block has no enabled event until the host acts (R213): a WRITE without its next byte, a response that is not
accepted, or no command (R128, R244). -/
def State.waiting (s : State) : Bool :=
  !s.rst &&
    match s.phase with
    | .idle  => s.cmdIn.isEmpty
    | .recv  => s.dataIn.isEmpty
    | .drain => s.dataIn.isEmpty
    | .resp  => !s.rspReady
    | .fold  => false
    | .final => false

/-! ### What cannot be observed -/

/-- Two states that differ at most in what holds no value: the registers before construction (R23, R42), the holding
registers outside the phases that use them (R35), and the model's HRESET count. -/
structure SameButUnspecified (s t : State) : Prop where
  cfgValid : s.cfgValid = t.cfgValid
  phase    : s.phase = t.phase
  rem      : s.rem = t.rem
  cmdIn    : s.cmdIn = t.cmdIn
  dataIn   : s.dataIn = t.dataIn
  rspOut   : s.rspOut = t.rspOut
  rspReady : s.rspReady = t.rspReady
  rst      : s.rst = t.rst
  calls    : s.calls = t.calls
  arch     : s.cfgValid = true → s.arch = t.arch
  stream   : s.cfgValid = true → s.stream = t.stream
  opHold   : s.phase = .final → s.opHold = t.opHold
  rspHold  : s.phase = .recv ∨ s.phase = .fold ∨ s.phase = .drain ∨ s.phase = .resp → s.rspHold = t.rspHold

/-! ### What may be said of a backend -/

/-- Seed sensitivity (R188), a duty of the backend that the model never assumes: no non-empty data gives one digest for
all seeds. -/
def SeedSensitive (bk : Backend) : Prop :=
  ∀ data : List Byte, data ≠ [] → data.length < 2 ^ 64 →
    ∃ seed1 seed2, digestOf bk seed1 data ≠ digestOf bk seed2 data

/-- The digest of the empty input depends on the seed (R189); never assumed. -/
def EmptySeedSensitive (bk : Backend) : Prop :=
  ∃ seed1 seed2, digestOf bk seed1 [] ≠ digestOf bk seed2 []

end Sys2Proof.Machine
end

