-- ==== Sys2Proof/Certificates/Slice0/Obligations.lean ====
section
/-! DEFINITION. The statements for the provers, from the numbered rules of spec/. Statements over every state hold in
states that no run reaches as well, unless the invariant `Inv` or a bound it implies stands among their premises. `exec`
is the command as one step of the operation level (R3) that ends in RESP, where the response word is held until the host
accepts it (R35, R125): the grain is the model's choice (log 8), and `OneResponsePerCommand`, `ResponseTransfer` and
`EveryStepIsItsTransfers` say how it meets the transfers. The record `calls` is the model's (log 2). -/

open Sys2Proof Sys2Proof.Machine

/-! ### Encoding and decoding -/

/-- R72 to R75: decoding the word of a well-formed command gives that command, for every operand. -/
def Obligations.DecodeOfEncode : Prop :=
  ∀ i : Instr, i.wf = true → decode (encode i) = .ok i

/-- R75: each word has at most one meaning; a word that decodes to a command is that command's word. -/
def Obligations.EncodeOfDecode : Prop :=
  ∀ (w : CmdWord) (i : Instr), decode w = .ok i → encode i = w

/-- R75, R76: a word is ILLEGAL exactly when its opcode is none of the eleven or its reserved operand is not 0. -/
def Obligations.IllegalExactlyWhenNotWellFormed : Prop :=
  ∀ w : CmdWord, (∃ why, decode w = .error why) ↔ (CmdWord.fields w).wf = false

/-- R93: the worked encodings, both ways, the illegal one and the payload of `WRITE 5` among them. -/
def Obligations.WorkedEncodingsDecode : Prop :=
  (∀ p ∈ [(Instr.new 0x0123456789ABCDEF, 0x100123456789ABCDEF), (.new64 42, 0x11000000000000002A),
      (.new32 0xFFFFFFFFFFFFFFFF, 0x12FFFFFFFFFFFFFFFF), (.write 5, 0x200000000000000005),
      (.write 300, 0x20000000000000012C), (.reset, 0x210000000000000000), (.sum, 0x300000000000000000),
      (.sumInto 16, 0x310000000000000010), (.sum64, 0x320000000000000000), (.sum32, 0x330000000000000000),
      (.size, 0x400000000000000000), (.blksz, 0x410000000000000000)],
    encode p.1 = p.2 ∧ decode p.2 = .ok p.1) ∧
  decode (AsmLine.word 0x300000000000000001).encoded = .error (.reservedOperand 0x30 1) ∧
  ∀ s : State, presentLines [writeLine [0x68, 0x65, 0x6C, 0x6C, 0x6F]] s = { s with
    cmdIn := s.cmdIn ++ [0x200000000000000005], dataIn := s.dataIn ++ [0x68, 0x65, 0x6C, 0x6C, 0x6F] }

/-- R79, R81: the two fields of a response word, and the six status values. -/
def Obligations.ResponseWordFields : Prop :=
  (∀ (st : Status) (pl : BitVec 128),
    rspStatus (responseWord st pl) = st.code ∧ rspPayload (responseWord st pl) = pl) ∧
  Status.ok.code = 0x00 ∧ Status.illegal.code = 0x01 ∧ Status.notInit.code = 0x02 ∧
  Status.precond.code = 0x03 ∧ Status.width.code = 0x04 ∧ Status.lenOvf.code = 0x05

/-! ### The step -/

/-- R60, R75: in IDLE, out of HRESET, the step takes the oldest presented word off the command channel and, when it
decodes to a command, executes exactly that command. -/
def Obligations.StepRunsTheDecodedCommand : Prop :=
  ∀ (s : State) (w : CmdWord) (ws : List CmdWord) (i : Instr),
    s.rst = false → s.phase = .idle → s.cmdIn = w :: ws → decode w = .ok i →
    step s = exec i { s with cmdIn := ws }

/-- R76: an illegal word is answered ILLEGAL with payload 0, whatever `cfg_valid` is; it changes no state and takes
no payload byte. The illegal words are those of an opcode that is none of the eleven, and of the six reserved-operand
opcodes with a non-zero operand. -/
def Obligations.IllegalWordIsAnswered : Prop :=
  (∀ (s : State) (w : CmdWord) (ws : List CmdWord) (why : Illegal),
    s.rst = false → s.phase = .idle → s.cmdIn = w :: ws → decode w = .error why →
    step s = .next { s with cmdIn := ws, rspHold := responseWord .illegal 0, phase := .resp }) ∧
  (∀ w : CmdWord, CmdWord.opcodeField w ∉ [0x10, 0x11, 0x12, 0x20, 0x21, 0x30, 0x31, 0x32, 0x33, 0x40, 0x41] →
    ∃ why, decode w = .error why) ∧
  (∀ w : CmdWord, CmdWord.opcodeField w ∈ [0x21, 0x30, 0x32, 0x33, 0x40, 0x41] → CmdWord.operandField w ≠ 0 →
    ∃ why, decode w = .error why)

/-- R128, R213, R244: a step changes nothing exactly when the block waits for the host. The stuttering step is the
model's way to write "stuck" (log 4). -/
def Obligations.StepChangesNothingExactlyWhenWaiting : Prop :=
  ∀ s : State, step s = .next s ↔ s.waiting = true

/-- R104, R125: in RESP an accepted response is transferred and the block is in IDLE again, nothing else changes; a
response that is not accepted holds the block (R244): the step that changes nothing is the model's way to write "no
enabled step" (log 4). -/
def Obligations.ResponseTransfer : Prop :=
  (∀ s : State, s.rst = false → s.phase = .resp → s.rspReady = true →
    step s = .next { s with phase := .idle, rspOut := s.rspOut ++ [s.rspHold] }) ∧
  (∀ s : State, s.rst = false → s.phase = .resp → s.rspReady = false → step s = .next s)

/-- R80: a command whose payload is there is answered by exactly one response. The first step takes its payload and makes
all its state changes, the second transfers the response and changes no architectural state; the next command waits until
then. -/
def Obligations.OneResponsePerCommand : Prop :=
  ∀ (s : State) (w : CmdWord) (ws : List CmdWord), s.readyFor w ws → s.rspReady = true →
    ∃ t u, step s = .next t ∧ t.phase = .resp ∧ t.rspOut = s.rspOut ∧ t.cmdIn = ws ∧
      t.dataIn = s.dataIn.drop (match decode w with | .ok i => i.payloadLength | .error _ => 0) ∧
      step t = .next u ∧ u.phase = .idle ∧ u.rspOut = s.rspOut ++ [t.rspHold] ∧ u.cmdIn = ws ∧
      u.arch = t.arch ∧ u.dataIn = t.dataIn

/-! ### Construction, RESET, queries -/

/-- R100: NEW, NEW64, NEW32 complete in every state, with exactly these writes. -/
def Obligations.NewConstructs : Prop :=
  ∀ (seed : U64) (s : State),
    exec (.new seed) s = .next { s with
      cfgValid := true, seed := seed, width := .w16, S := zeroState, P := [], T := [], L := 0, stream := [],
      rspHold := responseWord .ok 0, phase := .resp } ∧
    exec (.new64 seed) s = .next { s with
      cfgValid := true, seed := seed, width := .w8, S := zeroState, P := [], T := [], L := 0, stream := [],
      rspHold := responseWord .ok 0, phase := .resp } ∧
    exec (.new32 seed) s = .next { s with
      cfgValid := true, seed := seed, width := .w4, S := zeroState, P := [], T := [], L := 0, stream := [],
      rspHold := responseWord .ok 0, phase := .resp }

/-- R140: RESET clears the datapath and keeps `seed`, `width`, `cfg_valid`; before construction it raises NOT_INIT; with a
non-zero operand its word is ILLEGAL. -/
def Obligations.ResetClearsTheDatapath : Prop :=
  (∀ s : State, s.cfgValid = true →
    exec .reset s = .next { s with
      S := zeroState, P := [], T := [], L := 0, stream := [], rspHold := responseWord .ok 0, phase := .resp }) ∧
  (∀ s : State, s.cfgValid = false →
    exec .reset s = .next { s with rspHold := responseWord .notInit 0, phase := .resp }) ∧
  (∀ w : CmdWord, CmdWord.opcodeField w = 0x21 → CmdWord.operandField w ≠ 0 → ∃ why, decode w = .error why)

/-- R170: SIZE answers the width in bytes and changes nothing else; before construction it raises NOT_INIT; with a
non-zero operand its word is ILLEGAL. -/
def Obligations.SizeAnswersTheWidth : Prop :=
  (∀ s : State, s.cfgValid = true →
    exec .size s = .next { s with
      rspHold := responseWord .ok (match s.width with | .w4 => 4 | .w8 => 8 | .w16 => 16), phase := .resp }) ∧
  (∀ s : State, s.cfgValid = false →
    exec .size s = .next { s with rspHold := responseWord .notInit 0, phase := .resp }) ∧
  (∀ w : CmdWord, CmdWord.opcodeField w = 0x40 → CmdWord.operandField w ≠ 0 → ∃ why, decode w = .error why)

/-- R171: BLKSZ answers 256 and changes nothing else; before construction it raises NOT_INIT; with a non-zero operand
its word is ILLEGAL. -/
def Obligations.BlockSizeAnswers256 : Prop :=
  (∀ s : State, s.cfgValid = true →
    exec .blksz s = .next { s with rspHold := responseWord .ok 0x100, phase := .resp }) ∧
  (∀ s : State, s.cfgValid = false →
    exec .blksz s = .next { s with rspHold := responseWord .notInit 0, phase := .resp }) ∧
  (∀ w : CmdWord, CmdWord.opcodeField w = 0x41 → CmdWord.operandField w ≠ 0 → ∃ why, decode w = .error why)

/-! ### WRITE -/

/-- R118: the closed form of a successful WRITE, as one equation for the whole next state (its frame included), with
exactly `q` `Mix` calls, and the two fill counts after it. -/
def Obligations.WriteClosedForm : Prop :=
  ∀ (len : U64) (s : State), s.cfgValid = true → s.L.toNat + len.toNat < 2 ^ 64 →
    len.toNat ≤ s.dataIn.length → s.P.length < 256 →
    let B := s.dataIn.take len.toNat
    let X := s.P ++ B
    let q := (s.P.length + len.toNat) / 256
    exec (.write len) s = .next { s with
      S := foldFrom Config.backend q s.S X
      P := X.drop (256 * q)
      T := lastBytes 16 (s.T ++ B)
      L := BitVec.ofNat 64 (s.L.toNat + len.toNat)
      stream := s.stream ++ B
      dataIn := s.dataIn.drop len.toNat
      rem := 0
      rspHold := responseWord .ok 0
      phase := .resp
      calls := s.calls ++ foldCalls Config.backend q s.S X } ∧
    (X.drop (256 * q)).length = (s.P.length + len.toNat) % 256 ∧
    (s.T.length ≤ 16 → (lastBytes 16 (s.T ++ B)).length = min 16 (s.T.length + len.toNat)) ∧
    (foldCalls Config.backend q s.S X).length = q

/-- R120: a zero-length WRITE changes none of `S`, `P`, `T`, `L` and responds OK; before construction it raises
NOT_INIT. -/
def Obligations.ZeroLengthWriteChangesNothing : Prop :=
  (∀ s : State, s.cfgValid = true → s.buffersBounded → s.rem = 0 →
    exec (.write 0) s = .next { s with rspHold := responseWord .ok 0, phase := .resp }) ∧
  (∀ s : State, s.cfgValid = false → s.rem = 0 →
    exec (.write 0) s = .next { s with rspHold := responseWord .notInit 0, phase := .resp })

/-- R127: the two exceptions of WRITE in their order; no architectural change, no `Mix` call, exactly `len` bytes taken;
and a WRITE word is never ILLEGAL. -/
def Obligations.WriteFaultsDrainThePayload : Prop :=
  (∀ (len : U64) (s : State), s.cfgValid = false → len.toNat ≤ s.dataIn.length →
    exec (.write len) s = .next { s with
      dataIn := s.dataIn.drop len.toNat, rem := 0, rspHold := responseWord .notInit 0, phase := .resp }) ∧
  (∀ (len : U64) (s : State), s.cfgValid = true → 2 ^ 64 ≤ s.L.toNat + len.toNat → len.toNat ≤ s.dataIn.length →
    exec (.write len) s = .next { s with
      dataIn := s.dataIn.drop len.toNat, rem := 0, rspHold := responseWord .lenOvf 0, phase := .resp }) ∧
  (∀ w : CmdWord, CmdWord.opcodeField w = 0x20 → decode w = .ok (.write (CmdWord.operandField w)))

/-- R125, R128: a WRITE short of its payload leaves IDLE and gives no response; the block stays in RECV or DRAIN with
`cmd_ready` = 0 until a byte is there, and HRESET leaves it. The step that changes nothing while no byte is there is the
model's way to write "no enabled step" (R128, R213; log 4). -/
def Obligations.WriteWaitsForItsPayload : Prop :=
  (∀ (len : U64) (s : State), s.cfgValid = true → s.L.toNat + len.toNat < 2 ^ 64 → s.dataIn.length < len.toNat →
    exec (.write len) s = .next { s with
      L := s.L + len, rem := len, rspHold := responseWord .ok 0, phase := .recv }) ∧
  (∀ (len : U64) (s : State), s.cfgValid = true → 2 ^ 64 ≤ s.L.toNat + len.toNat → s.dataIn.length < len.toNat →
    exec (.write len) s = .next { s with rem := len, rspHold := responseWord .lenOvf 0, phase := .drain }) ∧
  (∀ (len : U64) (s : State), s.cfgValid = false → s.dataIn.length < len.toNat →
    exec (.write len) s = .next { s with rem := len, rspHold := responseWord .notInit 0, phase := .drain }) ∧
  (∀ s : State, s.rst = false → (s.phase = .recv ∨ s.phase = .drain) → s.dataIn = [] →
    step s = .next s ∧ (outputs s.rst s).cmdReady = false ∧ (outputs s.rst s).rsp = none) ∧
  (∀ s : State, s.rst = true → ∃ t, step s = .next t ∧ t.phase = .idle)

/-- R121: chunk-invariance. Any way of splitting the data into WRITEs leads to the same architectural state, the same
`Mix` calls in the same order and the same later digests as one WRITE. The premise on the length is the one R121 names; where
it fails, the single WRITE faults, and of the chunks the first that crosses the limit does, after the earlier ones. -/
def Obligations.ChunkInvariance : Prop :=
  (∀ (cs : List (List Byte)) (rest : List Byte) (s : State), s.cfgValid = true → s.buffersBounded →
    s.dataIn = cs.flatten ++ rest → s.L.toNat + cs.flatten.length < 2 ^ 64 →
    ∃ t u, runCommands (cs.map writeOf) s = .next t ∧ runCommands [writeOf cs.flatten] s = .next u ∧
      t.arch = u.arch ∧ t.stream = u.stream ∧ t.calls = u.calls ∧ t.dataIn = rest ∧ u.dataIn = rest ∧
      ∀ d : Instr, isDigestCommand d = true →
        ∃ t' u', exec d t = .next t' ∧ exec d u = .next u' ∧ t'.rspHold = u'.rspHold) ∧
  (∀ (cs : List (List Byte)) (c rest : List Byte) (s : State), s.cfgValid = true → s.buffersBounded →
    s.dataIn = cs.flatten ++ c ++ rest → s.L.toNat + cs.flatten.length < 2 ^ 64 →
    2 ^ 64 ≤ s.L.toNat + (cs.flatten ++ c).length → (cs.flatten ++ c).length < 2 ^ 64 →
    ∃ t u v, runCommands (cs.map writeOf) s = .next t ∧ t.L.toNat = s.L.toNat + cs.flatten.length ∧
      exec (writeOf c) t = .next u ∧ u.rspHold = responseWord .lenOvf 0 ∧ u.arch = t.arch ∧
      exec (writeOf (cs.flatten ++ c)) s = .next v ∧ v.rspHold = responseWord .lenOvf 0 ∧ v.arch = s.arch)

/-- R126: for every backend, the per-byte machine of R124 and R125 and the atomic WRITE of R110 reach the same state
and make the same `Mix` calls, in one acceptance, `len` byte transfers and `floor((n + len)/256)` backend results. -/
def Obligations.PerByteMachineRefinesAtomicWrite : Prop :=
  ∀ (bk : Backend) (len : U64) (s : State) (w : CmdWord) (ws : List CmdWord),
    s.rst = false → s.phase = .idle → s.cmdIn = w :: ws → decode w = .ok (.write len) →
    s.cfgValid = true → s.L.toNat + len.toNat < 2 ^ 64 → len.toNat ≤ s.dataIn.length → s.buffersBounded →
    ticks bk (1 + len.toNat + (s.P.length + len.toNat) / 256) s = writeCommand bk len { s with cmdIn := ws }

/-- R3, R126: at a command boundary every word, illegal and faulting ones included, is run by some number of events of
the interface level to exactly the state that the one atomic step of the operation level reaches. -/
def Obligations.EveryStepIsItsTransfers : Prop :=
  ∀ (s : State) (w : CmdWord) (ws : List CmdWord), s.readyFor w ws → s.buffersBounded → s.rem = 0 →
    ∃ k, ticks Config.backend k s = step s

/-- R143: reset equivalence, for each constructor of an accumulator: WRITE a, RESET, WRITE b ends in the same
architectural state as WRITE b on a fresh one, so every digest command answers the same after either. -/
def Obligations.ResetEquivalence : Prop :=
  ∀ (x : Instr) (a b rest : List Byte) (s : State), isConstruct x = true → a.length < 2 ^ 64 → b.length < 2 ^ 64 →
    ∃ t u, runCommands [x, writeOf a, .reset, writeOf b] { s with dataIn := a ++ b ++ rest } = .next t ∧
      runCommands [x, writeOf b] { s with dataIn := b ++ rest } = .next u ∧
      t.arch = u.arch ∧ t.dataIn = rest ∧ u.dataIn = rest ∧
      ∀ d : Instr, isDigestCommand d = true →
        ∃ t' u', exec d t = .next t' ∧ exec d u = .next u' ∧ t'.rspHold = u'.rspHold

/-! ### Digests -/

/-- R150, R151: SUM makes one `Fin` call, changes no architectural state, and returns the first `width` bytes of the
digest, byte `i` at bits `[8i+7 : 8i]`, the other bits 0. That `op_hold` still holds the opcode in RESP is the model's
choice (log 7), here and in the three statements that follow. -/
def Obligations.SumReturnsTheDigest : Prop :=
  ∀ s : State, s.cfgValid = true →
    ∃ pl : BitVec 128,
      exec .sum s = .next { s with
        opHold := 0x30, rspHold := responseWord .ok pl, phase := .resp
        calls := s.calls ++ [.fin s.seed s.S s.P s.T s.L] } ∧
      ∀ i : Fin 16, byteAt pl i.val =
        if i.val < widthBytes s.width then (Config.fin s.seed s.S s.P s.T s.L)[i] else 0

/-- R155: SUMINTO for a 16-byte destination on a width-16 accumulator returns all 16 bytes of the digest. -/
def Obligations.SumIntoReturnsTheFullDigest : Prop :=
  ∀ s : State, s.cfgValid = true → s.width = .w16 →
    ∃ pl : BitVec 128,
      exec (.sumInto 16) s = .next { s with
        opHold := 0x31, rspHold := responseWord .ok pl, phase := .resp
        calls := s.calls ++ [.fin s.seed s.S s.P s.T s.L] } ∧
      ∀ i : Fin 16, byteAt pl i.val = (Config.fin s.seed s.S s.P s.T s.L)[i]

/-- R157: SUM64 returns the little-endian integer of the first 8 digest bytes, on widths 8 and 16. -/
def Obligations.Sum64ReturnsEightBytes : Prop :=
  ∀ s : State, s.cfgValid = true → s.width ≠ .w4 →
    ∃ pl : BitVec 128,
      exec .sum64 s = .next { s with
        opHold := 0x32, rspHold := responseWord .ok pl, phase := .resp
        calls := s.calls ++ [.fin s.seed s.S s.P s.T s.L] } ∧
      pl.toNat = leNat ((Config.fin s.seed s.S s.P s.T s.L).toList.take 8)

/-- R159: SUM32 returns the little-endian integer of the first 4 digest bytes, on every width. -/
def Obligations.Sum32ReturnsFourBytes : Prop :=
  ∀ s : State, s.cfgValid = true →
    ∃ pl : BitVec 128,
      exec .sum32 s = .next { s with
        opHold := 0x33, rspHold := responseWord .ok pl, phase := .resp
        calls := s.calls ++ [.fin s.seed s.S s.P s.T s.L] } ∧
      pl.toNat = leNat ((Config.fin s.seed s.S s.P s.T s.L).toList.take 4)

/-- R54: the integer form and the byte form of a digest prefix are the same bits of the payload. -/
def Obligations.DigestIntegerAndByteFormsCoincide : Prop :=
  ∀ (k : Nat) (F : Bytes16), k ≤ 16 → digestIntPayload k F = digestBytesPayload k F

/-- R160: the order of the checks of the digest commands, first match wins; each of them ends with its code and changes
nothing. -/
def Obligations.DigestFaultsInOrder : Prop :=
  (∀ (d : Instr) (s : State), isDigestCommand d = true → s.cfgValid = false →
    exec d s = .next { s with rspHold := responseWord .notInit 0, phase := .resp }) ∧
  (∀ (dstLen : U64) (s : State), s.cfgValid = true → dstLen ≠ 16 →
    exec (.sumInto dstLen) s = .next { s with rspHold := responseWord .precond 0, phase := .resp }) ∧
  (∀ s : State, s.cfgValid = true → s.width ≠ .w16 →
    exec (.sumInto 16) s = .next { s with rspHold := responseWord .width 0, phase := .resp }) ∧
  (∀ s : State, s.cfgValid = true → s.width = .w4 →
    exec .sum64 s = .next { s with rspHold := responseWord .width 0, phase := .resp })

/-- R153: idempotent finalize. The same digest command, with any digest commands, queries and zero-length WRITEs between,
returns the same response word. -/
def Obligations.IdempotentFinalize : Prop :=
  ∀ (d : Instr) (between : List Instr) (s : State), isDigestCommand d = true → s.buffersBounded →
    (∀ i ∈ between, isDigestCommand i = true ∨ i = .size ∨ i = .blksz ∨ i = .write 0) →
    ∃ t u v, exec d s = .next t ∧ runCommands between (transferResponse t) = .next u ∧ exec d u = .next v ∧
      v.rspHold = t.rspHold

/-- R154: writing continues after a digest; the digest after the second part is that of both parts written at once. -/
def Obligations.WritingContinuesAfterADigest : Prop :=
  ∀ (a b rest : List Byte) (s : State), s.cfgValid = true → s.buffersBounded → s.dataIn = a ++ b ++ rest →
    s.L.toNat + (a ++ b).length < 2 ^ 64 →
    ∃ t u, runCommands [writeOf a, .sum, writeOf b, .sum] s = .next t ∧
      runCommands [writeOf (a ++ b), .sum] s = .next u ∧
      t.rspHold = u.rspHold ∧ t.arch = u.arch

/-- R161: the width-prefix law. Two accumulators with the same seed and datapath, one of width 16 and one of any width:
SUM on the other is the low `8 * width` bits of SUM at width 16, and SUM64 and SUM32 are its low 64 and 32 bits. -/
def Obligations.WidthPrefixLaw : Prop :=
  ∀ s s' : State, s.cfgValid = true → s'.cfgValid = true → s.width = .w16 →
    s'.seed = s.seed → s'.S = s.S → s'.P = s.P → s'.T = s.T → s'.L = s.L →
    ∃ t t' u v, exec .sum s = .next t ∧ exec .sum s' = .next t' ∧ exec .sum64 s = .next u ∧
      exec .sum32 s' = .next v ∧
      (rspPayload t'.rspHold).toNat = (rspPayload t.rspHold).toNat % 2 ^ (8 * widthBytes s'.width) ∧
      (rspPayload u.rspHold).toNat = (rspPayload t.rspHold).toNat % 2 ^ 64 ∧
      (rspPayload v.rspHold).toNat = (rspPayload u.rspHold).toNat % 2 ^ 32

/-- R41, R150: the digest of an accumulator is a function of its seed and of the stream alone, whatever the chunking; at
each of the three widths, after each of the three constructors. -/
def Obligations.DigestIsAFunctionOfTheStream : Prop :=
  ∀ (seed : U64) (cs : List (List Byte)) (rest : List Byte) (s : State),
    s.dataIn = cs.flatten ++ rest → cs.flatten.length < 2 ^ 64 →
    ∀ p ∈ [(Instr.new seed, 16), (Instr.new64 seed, 8), (Instr.new32 seed, 4)],
      ∃ t, runCommands (p.1 :: cs.map writeOf ++ [.sum]) s = .next t ∧
        t.rspHold = responseWord .ok (digestBytesPayload p.2 (digestOf Config.backend seed cs.flatten)) ∧
        t.dataIn = rest

/-- R92: what the three one-shot pseudo-instructions present, and the results of the commands they expand to. -/
def Obligations.OneShotPseudoInstructions : Prop :=
  (∀ (seed : U64) (data : List Byte) (s : State),
    presentLines (checksumLines seed data) s = { s with
      cmdIn := s.cmdIn ++ [encode (.new seed), encode (writeOf data), encode .sum], dataIn := s.dataIn ++ data } ∧
    presentLines (checksum64Lines seed data) s = { s with
      cmdIn := s.cmdIn ++ [encode (.new64 seed), encode (writeOf data), encode .sum64], dataIn := s.dataIn ++ data } ∧
    presentLines (checksum32Lines seed data) s = { s with
      cmdIn := s.cmdIn ++ [encode (.new32 seed), encode (writeOf data), encode .sum32], dataIn := s.dataIn ++ data }) ∧
  (∀ (seed : U64) (data rest : List Byte) (s : State), s.dataIn = data ++ rest → data.length < 2 ^ 64 →
    ∃ t u v, runCommands [.new seed, writeOf data, .sum] s = .next t ∧
      runCommands [.new64 seed, writeOf data, .sum64] s = .next u ∧
      runCommands [.new32 seed, writeOf data, .sum32] s = .next v ∧
      unpackBytes 16 (rspPayload t.rspHold) = (digestOf Config.backend seed data).toList ∧
      (rspPayload u.rspHold).toNat = leNat ((digestOf Config.backend seed data).toList.take 8) ∧
      (rspPayload v.rspHold).toNat = leNat ((digestOf Config.backend seed data).toList.take 4))

/-- R188: with a backend that is sensitive to the seed, the block does not ignore the seed: for every non-empty data some
two seeds give different SUM responses. The premise is a duty of the backend, assumed nowhere else. -/
def Obligations.BlockPassesSeedSensitivityOn : Prop :=
  ∀ (bk : Backend), SeedSensitive bk → ∀ (data rest : List Byte) (s : State), data ≠ [] → data.length < 2 ^ 64 →
    s.dataIn = data ++ rest →
    ∃ seed1 seed2 t1 t2 u1 u2,
      writeCommand bk (BitVec.ofNat 64 data.length) (construct .w16 seed1 s) = .next t1 ∧
      writeCommand bk (BitVec.ofNat 64 data.length) (construct .w16 seed2 s) = .next t2 ∧
      sumCommand bk t1 = .next u1 ∧ sumCommand bk t2 = .next u2 ∧ u1.rspHold ≠ u2.rspHold

/-! ### Faults and frames -/

/-- R203: before construction every command but NEW* raises NOT_INIT, whatever its operand; a WRITE drains its
payload besides. Once `cfg_valid` is 1 it stays 1 until an HRESET, and no command raises NOT_INIT. -/
def Obligations.NotInitBeforeConstruction : Prop :=
  (∀ (i : Instr) (s : State), isConstruct i = false → s.cfgValid = false → payloadThere i s → s.rem = 0 →
    exec i s = .next { s with
      dataIn := s.dataIn.drop i.payloadLength, rspHold := responseWord .notInit 0, phase := .resp }) ∧
  (∀ s t : State, s.rst = false → s.cfgValid = true → step s = .next t → t.cfgValid = true) ∧
  (∀ (i : Instr) (s t : State), s.cfgValid = true → payloadThere i s → exec i s = .next t →
    rspStatus t.rspHold ≠ 0x02)

/-- R208, R210, R211: a command whose tests on the state before it raise an exception ends in the state before it, but for
the drained payload of a WRITE and the response; no backend call is made. -/
def Obligations.FaultsAreTakenAndChangeNothing : Prop :=
  ∀ (i : Instr) (s : State) (e : Status), faultOf i s = some e → payloadThere i s → s.rem = 0 →
    exec i s = .next { s with
      dataIn := s.dataIn.drop i.payloadLength, rspHold := responseWord e 0, phase := .resp }

/-- R209: a command that no test of R208 stops succeeds: its response has status 0x00. -/
def Obligations.UnfaultedCommandsSucceed : Prop :=
  ∀ (i : Instr) (s : State), faultOf i s = none → payloadThere i s →
    ∃ t, exec i s = .next t ∧ t.phase = .resp ∧ rspStatus t.rspHold = 0x00

/-- R57: every command other than NEW*, RESET and a successful WRITE of at least one byte leaves the architectural state
as it is, and the ghost stream, the pins, the accepted responses and the commands presented. -/
def Obligations.OtherCommandsKeepTheArchitecturalState : Prop :=
  ∀ (i : Instr) (s t : State), isConstruct i = false → i ≠ .reset → s.buffersBounded →
    (∀ len, i = .write len → len = 0 ∨ (faultOf i s).isSome) →
    exec i s = .next t →
    t.arch = s.arch ∧ t.stream = s.stream ∧ t.cmdIn = s.cmdIn ∧ t.rspOut = s.rspOut ∧ t.rspReady = s.rspReady ∧
      t.rst = s.rst ∧ mixCalls t.calls = mixCalls s.calls

/-- R61, R242: bytes presented beyond a command's payload wait: they change nothing of what the command does and stand
after it on the data channel, first in line for the next WRITE. -/
def Obligations.SurplusBytesWait : Prop :=
  ∀ (i : Instr) (s : State) (extra : List Byte), payloadThere i s →
    ∃ t, exec i s = .next t ∧
      exec i { s with dataIn := s.dataIn ++ extra } = .next { t with dataIn := t.dataIn ++ extra }

/-- R21, R22, R23: out of HRESET, a step that does not execute NEW* keeps `cfg_valid`, `seed` and `width`. -/
def Obligations.OnlyConstructionWritesTheConfiguration : Prop :=
  ∀ s t : State, step s = .next t → s.rst = false →
    (∀ w ws i, s.phase = .idle → s.cmdIn = w :: ws → decode w = .ok i → isConstruct i = false) →
    t.cfgValid = s.cfgValid ∧ t.seed = s.seed ∧ t.width = s.width

/-- R28: out of HRESET, a step that executes neither NEW* nor RESET never makes `L` smaller; it does not wrap. -/
def Obligations.TotalLengthNeverDecreases : Prop :=
  ∀ s t : State, step s = .next t → s.rst = false →
    (∀ w ws i, s.phase = .idle → s.cmdIn = w :: ws → decode w = .ok i → isConstruct i = false ∧ i ≠ .reset) →
    s.L.toNat ≤ t.L.toNat

/-- R248: after NEW*, WRITEs of `L` bytes in total make exactly `floor(L / 256)` `Mix` calls, whatever the chunking, and
no `Fin` call; a digest command that does not fault adds exactly one `Fin` call and no `Mix` call. -/
def Obligations.WorkCounts : Prop :=
  (∀ (x : Instr) (cs : List (List Byte)) (rest : List Byte) (s : State), isConstruct x = true →
    s.dataIn = cs.flatten ++ rest → cs.flatten.length < 2 ^ 64 →
    ∃ t, runCommands (x :: cs.map writeOf) s = .next t ∧
      mixCalls t.calls = mixCalls s.calls + cs.flatten.length / 256 ∧ finCalls t.calls = finCalls s.calls) ∧
  (∀ (d : Instr) (s : State), isDigestCommand d = true → faultOf d s = none →
    ∃ t, exec d s = .next t ∧ finCalls t.calls = finCalls s.calls + 1 ∧ mixCalls t.calls = mixCalls s.calls)

/-! ### Invariants -/

/-- The invariant holds right after reset. -/
def Obligations.InvariantHoldsAtReset : Prop := Inv Config.backend State.reset

/-- R36 to R40, R25, R27, R34: every step of the machine keeps the invariant, from every state that has it. -/
def Obligations.StepKeepsTheInvariant : Prop :=
  ∀ s t : State, Inv Config.backend s → step s = .next t → Inv Config.backend t

/-- R119, R124, R125: for every backend, every event of the interface-level machine keeps the invariant. -/
def Obligations.EventsKeepTheInvariant : Prop :=
  ∀ (bk : Backend) (s t : State), Inv bk s → tick bk s = .next t → Inv bk t

/-- R209, R213: from a state with the invariant the machine never stops: neither a fault of the model nor a refusal. -/
def Obligations.InvariantStatesNeverStop : Prop :=
  ∀ s : State, Inv Config.backend s → ∃ t, step s = .next t

/-- R36 to R40, in the spec's words: at a command boundary with `cfg_valid` = 1 the datapath is what the stream gives,
in every state that has the invariant. -/
def Obligations.BoundaryDatapathIsTheStreams : Prop :=
  ∀ (bk : Backend) (s : State), Inv bk s → s.phase = .idle → s.cfgValid = true →
    s.L.toNat = s.stream.length ∧
    s.P.length = s.L.toNat % 256 ∧
    s.P = lastBytes s.P.length s.stream ∧
    s.S = foldStream bk s.stream ∧
    s.T.length = min 16 s.L.toNat ∧ s.T = lastBytes 16 s.stream

/-! ### Hardware reset, and what cannot be observed -/

/-- R230, R231: an edge with `rst` = 1 resets from every state: `cfg_valid` = 0, `phase` = IDLE, `rem` = 0, no response for
the command in progress, no backend call; what stands on the host's side of the channels stays; and every `ready` and
`valid` of the block is 0 while `rst` = 1. That the unspecified `P` and `T` keep their bounds is the model's choice
(log 3). -/
def Obligations.HardwareReset : Prop :=
  ∀ s : State, s.rst = true →
    ∃ t, step s = .next t ∧ t.cfgValid = false ∧ t.phase = .idle ∧ t.rem = 0 ∧
      t.cmdIn = s.cmdIn ∧ t.dataIn = s.dataIn ∧ t.rspOut = s.rspOut ∧ t.calls = s.calls ∧ t.buffersBounded ∧
      outputs s.rst s = ⟨false, false, none, none, none⟩

/-- R42, R230: the values the spec gives for HRESET, in the reset state, and `cmd_ready` = 1 once `rst` is 0. -/
def Obligations.ResetValues : Prop :=
  State.reset.cfgValid = false ∧ State.reset.phase = .idle ∧ State.reset.rem = 0 ∧
  (outputs false State.reset).cmdReady = true

/-- R23, R42: what holds no value cannot be observed: two states that differ only in unspecified registers (before
construction), in dead holding registers and in the model's HRESET count (log 3) step to two such states, with the same
responses and the same backend calls. -/
def Obligations.UnspecifiedRegistersAreUnobservable : Prop :=
  ∀ s s' t : State, SameButUnspecified s s' →
    (s.phase = .recv ∨ s.phase = .fold ∨ s.phase = .final → s.cfgValid = true) →
    step s = .next t → ∃ t', step s' = .next t' ∧ SameButUnspecified t t'

/-! ### Runs -/

/-- R246, R231, at both levels: a run that has ended is at rest, `phase` = IDLE, `rem` = 0, no backend call outstanding;
without HRESET it has ended exactly when no command is presented or in progress; and a run in which HRESET abandons a
command, which then has no response, never ends, the rule's words read literally (the model's reading, log 16). -/
def Obligations.RunEndsAtRest : Prop :=
  ∀ f : State → Result, (f = step ∨ ∃ bk, f = tick bk) →
    (∀ (es : List RunEvent) (s t : State), (s.phase = .idle ∨ s.phase = .final ∨ s.phase = .resp → s.rem = 0) →
      runFrom f es s = .next t → runEnded s es t = true →
      t.phase = .idle ∧ t.rem = 0 ∧ t.cmdIn = [] ∧ t.callOutstanding = false) ∧
    (∀ (es : List RunEvent) (s t : State), s.rst = false → RunEvent.host (.setRst true) ∉ es →
      runFrom f es s = .next t → (runEnded s es t = true ↔ t.cmdIn = [] ∧ t.phase = .idle)) ∧
    (∀ (es es' : List RunEvent) (s m t : State), runFrom f es s = .next m → m.rst = true → m.phase ≠ .idle →
      runFrom f (es ++ .step :: es') s = .next t → runEnded s (es ++ .step :: es') t = false)

/-! ### Ports -/

/-- R70, R71, R192: `ready` and `valid` of each channel as a function of `phase`, out of HRESET. -/
def Obligations.ReadyAndValidFollowThePhase : Prop :=
  ∀ s : State,
    ((outputs false s).cmdReady = true ↔ s.phase = .idle) ∧
    ((outputs false s).wdReady = true ↔ s.phase = .recv ∨ s.phase = .drain) ∧
    ((outputs false s).rsp.isSome ↔ s.phase = .resp) ∧
    ((outputs false s).mixReq.isSome ↔ s.phase = .fold) ∧
    ((outputs false s).finReq.isSome ↔ s.phase = .final)

/-- R193: on the `Fin` request ports the valid bytes are `P` and `T`, byte `i` at bits `[8i+7 : 8i]`, all others 0, and
the counts say how many are valid. -/
def Obligations.FinPortsAreMasked : Prop :=
  ∀ s : State, s.buffersBounded →
    (∀ i : Fin 256, byteAt (finRequestOf s).partialBlock i.val = s.P.getD i.val 0) ∧
    (∀ i : Fin 16, byteAt (finRequestOf s).trailing i.val = s.T.getD i.val 0) ∧
    (finRequestOf s).n.toNat = s.P.length ∧ (finRequestOf s).tlen.toNat = s.T.length

/-- R180, R192, R193: a backend that is a function of its port inputs answers what `Mix` and `Fin` give on the
architectural state. -/
def Obligations.PortAnswersAreTheBackendsValues : Prop :=
  ∀ (bk : Backend) (s : State),
    (s.P.length = 256 → bytes256Of (answerMix bk (mixRequestOf s)) = bk.mix s.S (blockOf s.P)) ∧
    (s.buffersBounded → bytes16Of (answerFin bk (finRequestOf s)) = finalize bk s)

/-- R71, R125, R194: an event of the sequencer is the rising edge at which what the channels present, and the backend's
answer, are on the pins; exactly what was transferred has left the channels. The handshake of R71 is the spec's passage
G1 from general knowledge (spec/93_implementation_defined.md); that a transfer is taken as soon as it can be is the
model's choice (log 4). -/
def Obligations.EventIsTheDrivenEdge : Prop :=
  ∀ (bk : Backend) (s : State), (s.phase = .final → s.buffersBounded) →
    tick bk s = edge (drivePins bk s) (afterTransfers s)
end

