-- ==== Sys2Proof/Laws/Bytes.lean ====
section
/-! SUPPORT. The byte sequence operations: the last bytes, reads and writes of the block buffer, the little-endian
reading, and the bytes of a packed vector. -/

namespace Sys2Proof.Machine

@[simp] theorem length_lastBytes (k : Nat) (x : List Byte) : (lastBytes k x).length = min k x.length := by
  simp [lastBytes]
  omega

theorem lastBytes_of_length_le {k : Nat} {x : List Byte} (h : x.length ≤ k) : lastBytes k x = x := by
  simp [lastBytes, Nat.sub_eq_zero_of_le h]

/-- The last `k` bytes of `x ++ y`, from the last `k` bytes of `x` alone. -/
theorem lastBytes_lastBytes_append (k : Nat) (x y : List Byte) :
    lastBytes k (lastBytes k x ++ y) = lastBytes k (x ++ y) := by
  have h : lastBytes k x ++ y = (x ++ y).drop (x.length - k) := by
    rw [lastBytes, List.drop_append_of_le_length (Nat.sub_le _ _)]
  rw [h]
  simp only [lastBytes, List.drop_drop, List.length_drop, List.length_append]
  congr 1
  omega

@[simp] theorem memRead_zero (k : Nat) (P : List Byte) : memRead 0 k P = P.take k := rfl

/-- Writing at the end of the buffer appends. -/
@[simp] theorem memWrite_length (v P : List Byte) : memWrite P.length v P = P ++ v := by
  simp [memWrite]

@[simp] theorem blockOf_toList (v : Bytes256) : blockOf v.toList = v := by
  ext i hi
  simp [blockOf]

theorem blockOf_getElem (x : List Byte) (i : Nat) (h : i < 256) : (blockOf x)[i] = x.getD i 0 := by
  simp [blockOf]

/-- The little-endian reading of `k` bytes is below `256^k`. -/
theorem leNat_lt (x : List Byte) : leNat x < 256 ^ x.length := by
  induction x with
  | nil => simp [leNat]
  | cons b bs ih =>
    have hb : b.toNat < 256 := b.isLt
    simp only [leNat, List.length_cons, Nat.pow_succ]
    omega

/-- A packed sequence that fits reads as its little-endian value. -/
theorem toNat_packBytes (w : Nat) (x : List Byte) (h : 8 * x.length ≤ w) : (packBytes w x).toNat = leNat x := by
  induction x with
  | nil => simp [packBytes, leNat]
  | cons b bs ih =>
    simp only [List.length_cons] at h
    have ihb := ih (by omega)
    have hlt : leNat bs < 2 ^ (w - 8) := by
      refine lt_of_lt_of_le (leNat_lt bs) ?_
      rw [show (256 : Nat) = 2 ^ 8 from rfl, ← Nat.pow_mul]
      exact Nat.pow_le_pow_right (by norm_num) (by omega)
    have hb : b.toNat < 2 ^ 8 := b.isLt
    have hw : 2 ^ w = 2 ^ (w - 8) * 2 ^ 8 := by rw [← Nat.pow_add]; congr 1; omega
    simp only [packBytes, BitVec.toNat_or, BitVec.toNat_shiftLeft, BitVec.toNat_setWidth, ihb]
    have h1 : leNat bs <<< 8 % 2 ^ w = leNat bs <<< 8 := by
      apply Nat.mod_eq_of_lt
      rw [Nat.shiftLeft_eq, hw]
      exact Nat.mul_lt_mul_of_pos_right hlt (by norm_num)
    have h2 : b.toNat % 2 ^ w = b.toNat := by
      apply Nat.mod_eq_of_lt
      exact lt_of_lt_of_le hb (Nat.pow_le_pow_right (by norm_num) (by omega))
    rw [h1, h2, Nat.shiftLeft_eq, Nat.mul_comm, ← Nat.two_pow_add_eq_or_of_lt hb]
    simp only [leNat]
    omega

/-- Byte `i` of the little-endian value of a sequence is its byte `i`, 0 beyond its end. -/
theorem leNat_byte (x : List Byte) (i : Nat) : leNat x / 256 ^ i % 256 = (x.getD i 0).toNat := by
  induction x generalizing i with
  | nil => simp [leNat]
  | cons b bs ih =>
    have hb : b.toNat < 256 := b.isLt
    cases i with
    | zero => simp only [leNat, List.getD_cons_zero]; omega
    | succ i =>
      rw [List.getD_cons_succ, ← ih i, leNat, Nat.pow_succ, Nat.mul_comm (256 ^ i), ← Nat.div_div_eq_div_mul]
      congr 2
      omega

/-- Byte `i` of a packed sequence (R52): the sequence's byte `i`, 0 beyond its end. -/
theorem byteAt_packBytes (w : Nat) (x : List Byte) (i : Nat) (h : 8 * x.length ≤ w) :
    byteAt (packBytes w x) i = x.getD i 0 := by
  apply BitVec.eq_of_toNat_eq
  rw [byteAt, BitVec.extractLsb'_toNat, toNat_packBytes w x h, Nat.shiftRight_eq_div_pow, Nat.pow_mul]
  exact leNat_byte x i

/-- The first bytes of a packed sequence are the sequence. -/
theorem unpackBytes_packBytes (w : Nat) (x : List Byte) (h : 8 * x.length ≤ w) :
    unpackBytes x.length (packBytes w x) = x := by
  apply List.ext_getElem
  · simp [unpackBytes]
  · intro i h1 h2
    simp [unpackBytes, byteAt_packBytes w x i h, h2]

theorem bytes256Of_packBytes (x : List Byte) (h : x.length = 256) : bytes256Of (packBytes 2048 x) = blockOf x := by
  ext i hi
  simp [bytes256Of, blockOf, byteAt_packBytes 2048 x i (by omega)]

theorem bytes16Of_packBytes (F : Bytes16) : bytes16Of (packBytes 128 F.toList) = F := by
  ext i hi
  simp [bytes16Of, byteAt_packBytes 128 F.toList i (by simp), hi]

end Sys2Proof.Machine
end

