-- ==== Sys2Proof/Laws/Encoding.lean ====
section
/-! SUPPORT. What the fields of a command word are, and the encoder's two fields. -/

namespace Sys2Proof

@[simp] theorem opcodeField_append (op : BitVec 8) (x : U64) : CmdWord.opcodeField (op ++ x) = op := by
  apply BitVec.eq_of_getLsbD_eq
  intro i hi
  refine (BitVec.getLsbD_extractLsb' ..).trans ?_
  have h : (op ++ x).getLsbD (64 + i) = op.getLsbD i := BitVec.getLsbD_append.trans (by simp)
  rw [h]
  simp [hi]

@[simp] theorem operandField_append (op : BitVec 8) (x : U64) : CmdWord.operandField (op ++ x) = x := by
  apply BitVec.eq_of_getLsbD_eq
  intro i hi
  refine (BitVec.getLsbD_extractLsb' ..).trans ?_
  have h : (op ++ x).getLsbD (0 + i) = x.getLsbD i := BitVec.getLsbD_append.trans (by simp [hi])
  rw [h]
  simp [hi]

/-- A word is its two fields (R72). -/
theorem append_fields (w : CmdWord) : CmdWord.opcodeField w ++ CmdWord.operandField w = w := by
  apply BitVec.eq_of_getLsbD_eq
  intro i hi
  refine BitVec.getLsbD_append.trans ?_
  by_cases h : i < 64
  · simp [h, CmdWord.operandField]
  · have h8 : i - 64 < 8 := by omega
    have : 64 + (i - 64) = i := by omega
    simp [h, h8, this, CmdWord.opcodeField]

@[simp] theorem opcodeField_encode (i : Instr) : CmdWord.opcodeField (encode i) = opcodeOf i :=
  opcodeField_append _ _

@[simp] theorem operandField_encode (i : Instr) : CmdWord.operandField (encode i) = operandOf i :=
  operandField_append _ _

/-- The encoded word's fields, from the encoder's tables. -/
theorem fields_encode (i : Instr) (r : RawCommand) (ho : opcodeOf i = r.opcode) (hx : operandOf i = r.operand) :
    CmdWord.fields (encode i) = r := by
  simp [CmdWord.fields, ho, hx]

end Sys2Proof
end

