-- ==== Sys2Proof/Laws/State.lean ====
section
/-! SUPPORT. One lemma per field per named update of State, true by rfl, so that no proof unfolds a record update. -/

namespace Sys2Proof.Machine

variable (s : State)

/-! ### respond -/

@[simp] theorem respond_cfgValid (st : Status) (pl : BitVec 128) : (respond st pl s).cfgValid = s.cfgValid := rfl
@[simp] theorem respond_seed (st : Status) (pl : BitVec 128) : (respond st pl s).seed = s.seed := rfl
@[simp] theorem respond_width (st : Status) (pl : BitVec 128) : (respond st pl s).width = s.width := rfl
@[simp] theorem respond_S (st : Status) (pl : BitVec 128) : (respond st pl s).S = s.S := rfl
@[simp] theorem respond_P (st : Status) (pl : BitVec 128) : (respond st pl s).P = s.P := rfl
@[simp] theorem respond_T (st : Status) (pl : BitVec 128) : (respond st pl s).T = s.T := rfl
@[simp] theorem respond_L (st : Status) (pl : BitVec 128) : (respond st pl s).L = s.L := rfl
@[simp] theorem respond_stream (st : Status) (pl : BitVec 128) : (respond st pl s).stream = s.stream := rfl
@[simp] theorem respond_phase (st : Status) (pl : BitVec 128) : (respond st pl s).phase = .resp := rfl
@[simp] theorem respond_rem (st : Status) (pl : BitVec 128) : (respond st pl s).rem = s.rem := rfl
@[simp] theorem respond_opHold (st : Status) (pl : BitVec 128) : (respond st pl s).opHold = s.opHold := rfl
@[simp] theorem respond_rspHold (st : Status) (pl : BitVec 128) : (respond st pl s).rspHold = responseWord st pl := rfl
@[simp] theorem respond_cmdIn (st : Status) (pl : BitVec 128) : (respond st pl s).cmdIn = s.cmdIn := rfl
@[simp] theorem respond_dataIn (st : Status) (pl : BitVec 128) : (respond st pl s).dataIn = s.dataIn := rfl
@[simp] theorem respond_rspOut (st : Status) (pl : BitVec 128) : (respond st pl s).rspOut = s.rspOut := rfl
@[simp] theorem respond_rspReady (st : Status) (pl : BitVec 128) : (respond st pl s).rspReady = s.rspReady := rfl
@[simp] theorem respond_rst (st : Status) (pl : BitVec 128) : (respond st pl s).rst = s.rst := rfl
@[simp] theorem respond_calls (st : Status) (pl : BitVec 128) : (respond st pl s).calls = s.calls := rfl
@[simp] theorem respond_hresets (st : Status) (pl : BitVec 128) : (respond st pl s).hresets = s.hresets := rfl

/-! ### raise -/

@[simp] theorem raise_cfgValid (e : Status) : (raise e s).cfgValid = s.cfgValid := rfl
@[simp] theorem raise_seed (e : Status) : (raise e s).seed = s.seed := rfl
@[simp] theorem raise_width (e : Status) : (raise e s).width = s.width := rfl
@[simp] theorem raise_S (e : Status) : (raise e s).S = s.S := rfl
@[simp] theorem raise_P (e : Status) : (raise e s).P = s.P := rfl
@[simp] theorem raise_T (e : Status) : (raise e s).T = s.T := rfl
@[simp] theorem raise_L (e : Status) : (raise e s).L = s.L := rfl
@[simp] theorem raise_stream (e : Status) : (raise e s).stream = s.stream := rfl
@[simp] theorem raise_phase (e : Status) : (raise e s).phase = .resp := rfl
@[simp] theorem raise_rem (e : Status) : (raise e s).rem = s.rem := rfl
@[simp] theorem raise_opHold (e : Status) : (raise e s).opHold = s.opHold := rfl
@[simp] theorem raise_rspHold (e : Status) : (raise e s).rspHold = responseWord e 0 := rfl
@[simp] theorem raise_cmdIn (e : Status) : (raise e s).cmdIn = s.cmdIn := rfl
@[simp] theorem raise_dataIn (e : Status) : (raise e s).dataIn = s.dataIn := rfl
@[simp] theorem raise_rspOut (e : Status) : (raise e s).rspOut = s.rspOut := rfl
@[simp] theorem raise_rspReady (e : Status) : (raise e s).rspReady = s.rspReady := rfl
@[simp] theorem raise_rst (e : Status) : (raise e s).rst = s.rst := rfl
@[simp] theorem raise_calls (e : Status) : (raise e s).calls = s.calls := rfl
@[simp] theorem raise_hresets (e : Status) : (raise e s).hresets = s.hresets := rfl

/-! ### transferResponse -/

@[simp] theorem transferResponse_cfgValid : (transferResponse s).cfgValid = s.cfgValid := rfl
@[simp] theorem transferResponse_seed : (transferResponse s).seed = s.seed := rfl
@[simp] theorem transferResponse_width : (transferResponse s).width = s.width := rfl
@[simp] theorem transferResponse_S : (transferResponse s).S = s.S := rfl
@[simp] theorem transferResponse_P : (transferResponse s).P = s.P := rfl
@[simp] theorem transferResponse_T : (transferResponse s).T = s.T := rfl
@[simp] theorem transferResponse_L : (transferResponse s).L = s.L := rfl
@[simp] theorem transferResponse_stream : (transferResponse s).stream = s.stream := rfl
@[simp] theorem transferResponse_phase : (transferResponse s).phase = .idle := rfl
@[simp] theorem transferResponse_rem : (transferResponse s).rem = s.rem := rfl
@[simp] theorem transferResponse_opHold : (transferResponse s).opHold = s.opHold := rfl
@[simp] theorem transferResponse_rspHold : (transferResponse s).rspHold = s.rspHold := rfl
@[simp] theorem transferResponse_cmdIn : (transferResponse s).cmdIn = s.cmdIn := rfl
@[simp] theorem transferResponse_dataIn : (transferResponse s).dataIn = s.dataIn := rfl
@[simp] theorem transferResponse_rspOut : (transferResponse s).rspOut = s.rspOut ++ [s.rspHold] := rfl
@[simp] theorem transferResponse_rspReady : (transferResponse s).rspReady = s.rspReady := rfl
@[simp] theorem transferResponse_rst : (transferResponse s).rst = s.rst := rfl
@[simp] theorem transferResponse_calls : (transferResponse s).calls = s.calls := rfl
@[simp] theorem transferResponse_hresets : (transferResponse s).hresets = s.hresets := rfl

/-! ### takePayload -/

@[simp] theorem takePayload_cfgValid (len : U64) : (takePayload len s).cfgValid = s.cfgValid := rfl
@[simp] theorem takePayload_seed (len : U64) : (takePayload len s).seed = s.seed := rfl
@[simp] theorem takePayload_width (len : U64) : (takePayload len s).width = s.width := rfl
@[simp] theorem takePayload_S (len : U64) : (takePayload len s).S = s.S := rfl
@[simp] theorem takePayload_P (len : U64) : (takePayload len s).P = s.P := rfl
@[simp] theorem takePayload_T (len : U64) : (takePayload len s).T = s.T := rfl
@[simp] theorem takePayload_L (len : U64) : (takePayload len s).L = s.L := rfl
@[simp] theorem takePayload_stream (len : U64) : (takePayload len s).stream = s.stream := rfl
@[simp] theorem takePayload_phase (len : U64) : (takePayload len s).phase = s.phase := rfl
@[simp] theorem takePayload_rem (len : U64) : (takePayload len s).rem = 0 := rfl
@[simp] theorem takePayload_opHold (len : U64) : (takePayload len s).opHold = s.opHold := rfl
@[simp] theorem takePayload_rspHold (len : U64) : (takePayload len s).rspHold = s.rspHold := rfl
@[simp] theorem takePayload_cmdIn (len : U64) : (takePayload len s).cmdIn = s.cmdIn := rfl
@[simp] theorem takePayload_dataIn (len : U64) : (takePayload len s).dataIn = s.dataIn.drop len.toNat := rfl
@[simp] theorem takePayload_rspOut (len : U64) : (takePayload len s).rspOut = s.rspOut := rfl
@[simp] theorem takePayload_rspReady (len : U64) : (takePayload len s).rspReady = s.rspReady := rfl
@[simp] theorem takePayload_rst (len : U64) : (takePayload len s).rst = s.rst := rfl
@[simp] theorem takePayload_calls (len : U64) : (takePayload len s).calls = s.calls := rfl
@[simp] theorem takePayload_hresets (len : U64) : (takePayload len s).hresets = s.hresets := rfl

/-! ### clearDatapath -/

@[simp] theorem clearDatapath_cfgValid : (clearDatapath s).cfgValid = s.cfgValid := rfl
@[simp] theorem clearDatapath_seed : (clearDatapath s).seed = s.seed := rfl
@[simp] theorem clearDatapath_width : (clearDatapath s).width = s.width := rfl
@[simp] theorem clearDatapath_S : (clearDatapath s).S = zeroState := rfl
@[simp] theorem clearDatapath_P : (clearDatapath s).P = [] := rfl
@[simp] theorem clearDatapath_T : (clearDatapath s).T = [] := rfl
@[simp] theorem clearDatapath_L : (clearDatapath s).L = 0 := rfl
@[simp] theorem clearDatapath_stream : (clearDatapath s).stream = [] := rfl
@[simp] theorem clearDatapath_phase : (clearDatapath s).phase = s.phase := rfl
@[simp] theorem clearDatapath_rem : (clearDatapath s).rem = s.rem := rfl
@[simp] theorem clearDatapath_opHold : (clearDatapath s).opHold = s.opHold := rfl
@[simp] theorem clearDatapath_rspHold : (clearDatapath s).rspHold = s.rspHold := rfl
@[simp] theorem clearDatapath_cmdIn : (clearDatapath s).cmdIn = s.cmdIn := rfl
@[simp] theorem clearDatapath_dataIn : (clearDatapath s).dataIn = s.dataIn := rfl
@[simp] theorem clearDatapath_rspOut : (clearDatapath s).rspOut = s.rspOut := rfl
@[simp] theorem clearDatapath_rspReady : (clearDatapath s).rspReady = s.rspReady := rfl
@[simp] theorem clearDatapath_rst : (clearDatapath s).rst = s.rst := rfl
@[simp] theorem clearDatapath_calls : (clearDatapath s).calls = s.calls := rfl
@[simp] theorem clearDatapath_hresets : (clearDatapath s).hresets = s.hresets := rfl

/-! ### construct -/

@[simp] theorem construct_cfgValid (w : Width) (x : U64) : (construct w x s).cfgValid = true := rfl
@[simp] theorem construct_seed (w : Width) (x : U64) : (construct w x s).seed = x := rfl
@[simp] theorem construct_width (w : Width) (x : U64) : (construct w x s).width = w := rfl
@[simp] theorem construct_S (w : Width) (x : U64) : (construct w x s).S = zeroState := rfl
@[simp] theorem construct_P (w : Width) (x : U64) : (construct w x s).P = [] := rfl
@[simp] theorem construct_T (w : Width) (x : U64) : (construct w x s).T = [] := rfl
@[simp] theorem construct_L (w : Width) (x : U64) : (construct w x s).L = 0 := rfl
@[simp] theorem construct_stream (w : Width) (x : U64) : (construct w x s).stream = [] := rfl
@[simp] theorem construct_phase (w : Width) (x : U64) : (construct w x s).phase = s.phase := rfl
@[simp] theorem construct_rem (w : Width) (x : U64) : (construct w x s).rem = s.rem := rfl
@[simp] theorem construct_opHold (w : Width) (x : U64) : (construct w x s).opHold = s.opHold := rfl
@[simp] theorem construct_rspHold (w : Width) (x : U64) : (construct w x s).rspHold = s.rspHold := rfl
@[simp] theorem construct_cmdIn (w : Width) (x : U64) : (construct w x s).cmdIn = s.cmdIn := rfl
@[simp] theorem construct_dataIn (w : Width) (x : U64) : (construct w x s).dataIn = s.dataIn := rfl
@[simp] theorem construct_rspOut (w : Width) (x : U64) : (construct w x s).rspOut = s.rspOut := rfl
@[simp] theorem construct_rspReady (w : Width) (x : U64) : (construct w x s).rspReady = s.rspReady := rfl
@[simp] theorem construct_rst (w : Width) (x : U64) : (construct w x s).rst = s.rst := rfl
@[simp] theorem construct_calls (w : Width) (x : U64) : (construct w x s).calls = s.calls := rfl
@[simp] theorem construct_hresets (w : Width) (x : U64) : (construct w x s).hresets = s.hresets := rfl

/-! ### foldBlock -/

@[simp] theorem foldBlock_cfgValid (bk : Backend) (b : Bytes256) : (foldBlock bk b s).cfgValid = s.cfgValid := rfl
@[simp] theorem foldBlock_seed (bk : Backend) (b : Bytes256) : (foldBlock bk b s).seed = s.seed := rfl
@[simp] theorem foldBlock_width (bk : Backend) (b : Bytes256) : (foldBlock bk b s).width = s.width := rfl
@[simp] theorem foldBlock_S (bk : Backend) (b : Bytes256) : (foldBlock bk b s).S = bk.mix s.S b := rfl
@[simp] theorem foldBlock_P (bk : Backend) (b : Bytes256) : (foldBlock bk b s).P = s.P := rfl
@[simp] theorem foldBlock_T (bk : Backend) (b : Bytes256) : (foldBlock bk b s).T = s.T := rfl
@[simp] theorem foldBlock_L (bk : Backend) (b : Bytes256) : (foldBlock bk b s).L = s.L := rfl
@[simp] theorem foldBlock_stream (bk : Backend) (b : Bytes256) : (foldBlock bk b s).stream = s.stream := rfl
@[simp] theorem foldBlock_phase (bk : Backend) (b : Bytes256) : (foldBlock bk b s).phase = s.phase := rfl
@[simp] theorem foldBlock_rem (bk : Backend) (b : Bytes256) : (foldBlock bk b s).rem = s.rem := rfl
@[simp] theorem foldBlock_opHold (bk : Backend) (b : Bytes256) : (foldBlock bk b s).opHold = s.opHold := rfl
@[simp] theorem foldBlock_rspHold (bk : Backend) (b : Bytes256) : (foldBlock bk b s).rspHold = s.rspHold := rfl
@[simp] theorem foldBlock_cmdIn (bk : Backend) (b : Bytes256) : (foldBlock bk b s).cmdIn = s.cmdIn := rfl
@[simp] theorem foldBlock_dataIn (bk : Backend) (b : Bytes256) : (foldBlock bk b s).dataIn = s.dataIn := rfl
@[simp] theorem foldBlock_rspOut (bk : Backend) (b : Bytes256) : (foldBlock bk b s).rspOut = s.rspOut := rfl
@[simp] theorem foldBlock_rspReady (bk : Backend) (b : Bytes256) : (foldBlock bk b s).rspReady = s.rspReady := rfl
@[simp] theorem foldBlock_rst (bk : Backend) (b : Bytes256) : (foldBlock bk b s).rst = s.rst := rfl
@[simp] theorem foldBlock_calls (bk : Backend) (b : Bytes256) : (foldBlock bk b s).calls = s.calls ++ [.mix s.S b] := rfl
@[simp] theorem foldBlock_hresets (bk : Backend) (b : Bytes256) : (foldBlock bk b s).hresets = s.hresets := rfl

/-! ### foldBuffer -/

@[simp] theorem foldBuffer_cfgValid (bk : Backend) : (foldBuffer bk s).cfgValid = s.cfgValid := rfl
@[simp] theorem foldBuffer_seed (bk : Backend) : (foldBuffer bk s).seed = s.seed := rfl
@[simp] theorem foldBuffer_width (bk : Backend) : (foldBuffer bk s).width = s.width := rfl
@[simp] theorem foldBuffer_S (bk : Backend) : (foldBuffer bk s).S = bk.mix s.S (blockOf (memRead 0 256 s.P)) := rfl
@[simp] theorem foldBuffer_P (bk : Backend) : (foldBuffer bk s).P = [] := rfl
@[simp] theorem foldBuffer_T (bk : Backend) : (foldBuffer bk s).T = s.T := rfl
@[simp] theorem foldBuffer_L (bk : Backend) : (foldBuffer bk s).L = s.L := rfl
@[simp] theorem foldBuffer_stream (bk : Backend) : (foldBuffer bk s).stream = s.stream := rfl
@[simp] theorem foldBuffer_phase (bk : Backend) : (foldBuffer bk s).phase = s.phase := rfl
@[simp] theorem foldBuffer_rem (bk : Backend) : (foldBuffer bk s).rem = s.rem := rfl
@[simp] theorem foldBuffer_opHold (bk : Backend) : (foldBuffer bk s).opHold = s.opHold := rfl
@[simp] theorem foldBuffer_rspHold (bk : Backend) : (foldBuffer bk s).rspHold = s.rspHold := rfl
@[simp] theorem foldBuffer_cmdIn (bk : Backend) : (foldBuffer bk s).cmdIn = s.cmdIn := rfl
@[simp] theorem foldBuffer_dataIn (bk : Backend) : (foldBuffer bk s).dataIn = s.dataIn := rfl
@[simp] theorem foldBuffer_rspOut (bk : Backend) : (foldBuffer bk s).rspOut = s.rspOut := rfl
@[simp] theorem foldBuffer_rspReady (bk : Backend) : (foldBuffer bk s).rspReady = s.rspReady := rfl
@[simp] theorem foldBuffer_rst (bk : Backend) : (foldBuffer bk s).rst = s.rst := rfl
@[simp] theorem foldBuffer_calls (bk : Backend) : (foldBuffer bk s).calls = s.calls ++ [.mix s.S (blockOf (memRead 0 256 s.P))] := rfl
@[simp] theorem foldBuffer_hresets (bk : Backend) : (foldBuffer bk s).hresets = s.hresets := rfl

/-! ### issueFin -/

@[simp] theorem issueFin_cfgValid (op : BitVec 8) : (issueFin op s).cfgValid = s.cfgValid := rfl
@[simp] theorem issueFin_seed (op : BitVec 8) : (issueFin op s).seed = s.seed := rfl
@[simp] theorem issueFin_width (op : BitVec 8) : (issueFin op s).width = s.width := rfl
@[simp] theorem issueFin_S (op : BitVec 8) : (issueFin op s).S = s.S := rfl
@[simp] theorem issueFin_P (op : BitVec 8) : (issueFin op s).P = s.P := rfl
@[simp] theorem issueFin_T (op : BitVec 8) : (issueFin op s).T = s.T := rfl
@[simp] theorem issueFin_L (op : BitVec 8) : (issueFin op s).L = s.L := rfl
@[simp] theorem issueFin_stream (op : BitVec 8) : (issueFin op s).stream = s.stream := rfl
@[simp] theorem issueFin_phase (op : BitVec 8) : (issueFin op s).phase = s.phase := rfl
@[simp] theorem issueFin_rem (op : BitVec 8) : (issueFin op s).rem = s.rem := rfl
@[simp] theorem issueFin_opHold (op : BitVec 8) : (issueFin op s).opHold = op := rfl
@[simp] theorem issueFin_rspHold (op : BitVec 8) : (issueFin op s).rspHold = s.rspHold := rfl
@[simp] theorem issueFin_cmdIn (op : BitVec 8) : (issueFin op s).cmdIn = s.cmdIn := rfl
@[simp] theorem issueFin_dataIn (op : BitVec 8) : (issueFin op s).dataIn = s.dataIn := rfl
@[simp] theorem issueFin_rspOut (op : BitVec 8) : (issueFin op s).rspOut = s.rspOut := rfl
@[simp] theorem issueFin_rspReady (op : BitVec 8) : (issueFin op s).rspReady = s.rspReady := rfl
@[simp] theorem issueFin_rst (op : BitVec 8) : (issueFin op s).rst = s.rst := rfl
@[simp] theorem issueFin_calls (op : BitVec 8) : (issueFin op s).calls = s.calls ++ [.fin s.seed s.S s.P s.T s.L] := rfl
@[simp] theorem issueFin_hresets (op : BitVec 8) : (issueFin op s).hresets = s.hresets := rfl

/-! ### writeStep1 -/

@[simp] theorem writeStep1_cfgValid (len : U64) : (writeStep1 len s).cfgValid = s.cfgValid := rfl
@[simp] theorem writeStep1_seed (len : U64) : (writeStep1 len s).seed = s.seed := rfl
@[simp] theorem writeStep1_width (len : U64) : (writeStep1 len s).width = s.width := rfl
@[simp] theorem writeStep1_S (len : U64) : (writeStep1 len s).S = s.S := rfl
@[simp] theorem writeStep1_P (len : U64) : (writeStep1 len s).P = s.P := rfl
@[simp] theorem writeStep1_T (len : U64) : (writeStep1 len s).T = s.T := rfl
@[simp] theorem writeStep1_L (len : U64) : (writeStep1 len s).L = s.L + len := rfl
@[simp] theorem writeStep1_stream (len : U64) : (writeStep1 len s).stream = s.stream := rfl
@[simp] theorem writeStep1_phase (len : U64) : (writeStep1 len s).phase = s.phase := rfl
@[simp] theorem writeStep1_rem (len : U64) : (writeStep1 len s).rem = s.rem := rfl
@[simp] theorem writeStep1_opHold (len : U64) : (writeStep1 len s).opHold = s.opHold := rfl
@[simp] theorem writeStep1_rspHold (len : U64) : (writeStep1 len s).rspHold = s.rspHold := rfl
@[simp] theorem writeStep1_cmdIn (len : U64) : (writeStep1 len s).cmdIn = s.cmdIn := rfl
@[simp] theorem writeStep1_dataIn (len : U64) : (writeStep1 len s).dataIn = s.dataIn := rfl
@[simp] theorem writeStep1_rspOut (len : U64) : (writeStep1 len s).rspOut = s.rspOut := rfl
@[simp] theorem writeStep1_rspReady (len : U64) : (writeStep1 len s).rspReady = s.rspReady := rfl
@[simp] theorem writeStep1_rst (len : U64) : (writeStep1 len s).rst = s.rst := rfl
@[simp] theorem writeStep1_calls (len : U64) : (writeStep1 len s).calls = s.calls := rfl
@[simp] theorem writeStep1_hresets (len : U64) : (writeStep1 len s).hresets = s.hresets := rfl

/-! ### writeStep2 -/

@[simp] theorem writeStep2_cfgValid (B : List Byte) : (writeStep2 B s).cfgValid = s.cfgValid := rfl
@[simp] theorem writeStep2_seed (B : List Byte) : (writeStep2 B s).seed = s.seed := rfl
@[simp] theorem writeStep2_width (B : List Byte) : (writeStep2 B s).width = s.width := rfl
@[simp] theorem writeStep2_S (B : List Byte) : (writeStep2 B s).S = s.S := rfl
@[simp] theorem writeStep2_P (B : List Byte) : (writeStep2 B s).P = s.P := rfl
@[simp] theorem writeStep2_T (B : List Byte) : (writeStep2 B s).T = slideWindow s.T B := rfl
@[simp] theorem writeStep2_L (B : List Byte) : (writeStep2 B s).L = s.L := rfl
@[simp] theorem writeStep2_stream (B : List Byte) : (writeStep2 B s).stream = s.stream := rfl
@[simp] theorem writeStep2_phase (B : List Byte) : (writeStep2 B s).phase = s.phase := rfl
@[simp] theorem writeStep2_rem (B : List Byte) : (writeStep2 B s).rem = s.rem := rfl
@[simp] theorem writeStep2_opHold (B : List Byte) : (writeStep2 B s).opHold = s.opHold := rfl
@[simp] theorem writeStep2_rspHold (B : List Byte) : (writeStep2 B s).rspHold = s.rspHold := rfl
@[simp] theorem writeStep2_cmdIn (B : List Byte) : (writeStep2 B s).cmdIn = s.cmdIn := rfl
@[simp] theorem writeStep2_dataIn (B : List Byte) : (writeStep2 B s).dataIn = s.dataIn := rfl
@[simp] theorem writeStep2_rspOut (B : List Byte) : (writeStep2 B s).rspOut = s.rspOut := rfl
@[simp] theorem writeStep2_rspReady (B : List Byte) : (writeStep2 B s).rspReady = s.rspReady := rfl
@[simp] theorem writeStep2_rst (B : List Byte) : (writeStep2 B s).rst = s.rst := rfl
@[simp] theorem writeStep2_calls (B : List Byte) : (writeStep2 B s).calls = s.calls := rfl
@[simp] theorem writeStep2_hresets (B : List Byte) : (writeStep2 B s).hresets = s.hresets := rfl

/-! ### beginReceive -/

@[simp] theorem beginReceive_cfgValid (len : U64) : (beginReceive len s).cfgValid = s.cfgValid := rfl
@[simp] theorem beginReceive_seed (len : U64) : (beginReceive len s).seed = s.seed := rfl
@[simp] theorem beginReceive_width (len : U64) : (beginReceive len s).width = s.width := rfl
@[simp] theorem beginReceive_S (len : U64) : (beginReceive len s).S = s.S := rfl
@[simp] theorem beginReceive_P (len : U64) : (beginReceive len s).P = s.P := rfl
@[simp] theorem beginReceive_T (len : U64) : (beginReceive len s).T = s.T := rfl
@[simp] theorem beginReceive_L (len : U64) : (beginReceive len s).L = s.L + len := rfl
@[simp] theorem beginReceive_stream (len : U64) : (beginReceive len s).stream = s.stream := rfl
@[simp] theorem beginReceive_phase (len : U64) : (beginReceive len s).phase = .recv := rfl
@[simp] theorem beginReceive_rem (len : U64) : (beginReceive len s).rem = len := rfl
@[simp] theorem beginReceive_opHold (len : U64) : (beginReceive len s).opHold = s.opHold := rfl
@[simp] theorem beginReceive_rspHold (len : U64) : (beginReceive len s).rspHold = responseWord .ok 0 := rfl
@[simp] theorem beginReceive_cmdIn (len : U64) : (beginReceive len s).cmdIn = s.cmdIn := rfl
@[simp] theorem beginReceive_dataIn (len : U64) : (beginReceive len s).dataIn = s.dataIn := rfl
@[simp] theorem beginReceive_rspOut (len : U64) : (beginReceive len s).rspOut = s.rspOut := rfl
@[simp] theorem beginReceive_rspReady (len : U64) : (beginReceive len s).rspReady = s.rspReady := rfl
@[simp] theorem beginReceive_rst (len : U64) : (beginReceive len s).rst = s.rst := rfl
@[simp] theorem beginReceive_calls (len : U64) : (beginReceive len s).calls = s.calls := rfl
@[simp] theorem beginReceive_hresets (len : U64) : (beginReceive len s).hresets = s.hresets := rfl

/-! ### acceptDigest -/

@[simp] theorem acceptDigest_cfgValid (op : BitVec 8) : (acceptDigest op s).cfgValid = s.cfgValid := rfl
@[simp] theorem acceptDigest_seed (op : BitVec 8) : (acceptDigest op s).seed = s.seed := rfl
@[simp] theorem acceptDigest_width (op : BitVec 8) : (acceptDigest op s).width = s.width := rfl
@[simp] theorem acceptDigest_S (op : BitVec 8) : (acceptDigest op s).S = s.S := rfl
@[simp] theorem acceptDigest_P (op : BitVec 8) : (acceptDigest op s).P = s.P := rfl
@[simp] theorem acceptDigest_T (op : BitVec 8) : (acceptDigest op s).T = s.T := rfl
@[simp] theorem acceptDigest_L (op : BitVec 8) : (acceptDigest op s).L = s.L := rfl
@[simp] theorem acceptDigest_stream (op : BitVec 8) : (acceptDigest op s).stream = s.stream := rfl
@[simp] theorem acceptDigest_phase (op : BitVec 8) : (acceptDigest op s).phase = .final := rfl
@[simp] theorem acceptDigest_rem (op : BitVec 8) : (acceptDigest op s).rem = s.rem := rfl
@[simp] theorem acceptDigest_opHold (op : BitVec 8) : (acceptDigest op s).opHold = op := rfl
@[simp] theorem acceptDigest_rspHold (op : BitVec 8) : (acceptDigest op s).rspHold = s.rspHold := rfl
@[simp] theorem acceptDigest_cmdIn (op : BitVec 8) : (acceptDigest op s).cmdIn = s.cmdIn := rfl
@[simp] theorem acceptDigest_dataIn (op : BitVec 8) : (acceptDigest op s).dataIn = s.dataIn := rfl
@[simp] theorem acceptDigest_rspOut (op : BitVec 8) : (acceptDigest op s).rspOut = s.rspOut := rfl
@[simp] theorem acceptDigest_rspReady (op : BitVec 8) : (acceptDigest op s).rspReady = s.rspReady := rfl
@[simp] theorem acceptDigest_rst (op : BitVec 8) : (acceptDigest op s).rst = s.rst := rfl
@[simp] theorem acceptDigest_calls (op : BitVec 8) : (acceptDigest op s).calls = s.calls ++ [.fin s.seed s.S s.P s.T s.L] := rfl
@[simp] theorem acceptDigest_hresets (op : BitVec 8) : (acceptDigest op s).hresets = s.hresets := rfl

/-! ### takeMixResult -/

@[simp] theorem takeMixResult_cfgValid (r : Bytes256) : (takeMixResult r s).cfgValid = s.cfgValid := rfl
@[simp] theorem takeMixResult_seed (r : Bytes256) : (takeMixResult r s).seed = s.seed := rfl
@[simp] theorem takeMixResult_width (r : Bytes256) : (takeMixResult r s).width = s.width := rfl
@[simp] theorem takeMixResult_S (r : Bytes256) : (takeMixResult r s).S = r := rfl
@[simp] theorem takeMixResult_P (r : Bytes256) : (takeMixResult r s).P = [] := rfl
@[simp] theorem takeMixResult_T (r : Bytes256) : (takeMixResult r s).T = s.T := rfl
@[simp] theorem takeMixResult_L (r : Bytes256) : (takeMixResult r s).L = s.L := rfl
@[simp] theorem takeMixResult_stream (r : Bytes256) : (takeMixResult r s).stream = s.stream := rfl
@[simp] theorem takeMixResult_phase (r : Bytes256) : (takeMixResult r s).phase = if s.rem = 0 then .resp else .recv := rfl
@[simp] theorem takeMixResult_rem (r : Bytes256) : (takeMixResult r s).rem = s.rem := rfl
@[simp] theorem takeMixResult_opHold (r : Bytes256) : (takeMixResult r s).opHold = s.opHold := rfl
@[simp] theorem takeMixResult_rspHold (r : Bytes256) : (takeMixResult r s).rspHold = s.rspHold := rfl
@[simp] theorem takeMixResult_cmdIn (r : Bytes256) : (takeMixResult r s).cmdIn = s.cmdIn := rfl
@[simp] theorem takeMixResult_dataIn (r : Bytes256) : (takeMixResult r s).dataIn = s.dataIn := rfl
@[simp] theorem takeMixResult_rspOut (r : Bytes256) : (takeMixResult r s).rspOut = s.rspOut := rfl
@[simp] theorem takeMixResult_rspReady (r : Bytes256) : (takeMixResult r s).rspReady = s.rspReady := rfl
@[simp] theorem takeMixResult_rst (r : Bytes256) : (takeMixResult r s).rst = s.rst := rfl
@[simp] theorem takeMixResult_calls (r : Bytes256) : (takeMixResult r s).calls = s.calls := rfl
@[simp] theorem takeMixResult_hresets (r : Bytes256) : (takeMixResult r s).hresets = s.hresets := rfl

/-! ### drainByte -/

@[simp] theorem drainByte_cfgValid : (drainByte s).cfgValid = s.cfgValid := rfl
@[simp] theorem drainByte_seed : (drainByte s).seed = s.seed := rfl
@[simp] theorem drainByte_width : (drainByte s).width = s.width := rfl
@[simp] theorem drainByte_S : (drainByte s).S = s.S := rfl
@[simp] theorem drainByte_P : (drainByte s).P = s.P := rfl
@[simp] theorem drainByte_T : (drainByte s).T = s.T := rfl
@[simp] theorem drainByte_L : (drainByte s).L = s.L := rfl
@[simp] theorem drainByte_stream : (drainByte s).stream = s.stream := rfl
@[simp] theorem drainByte_phase : (drainByte s).phase = if s.rem - 1 = 0 then .resp else .drain := rfl
@[simp] theorem drainByte_rem : (drainByte s).rem = s.rem - 1 := rfl
@[simp] theorem drainByte_opHold : (drainByte s).opHold = s.opHold := rfl
@[simp] theorem drainByte_rspHold : (drainByte s).rspHold = s.rspHold := rfl
@[simp] theorem drainByte_cmdIn : (drainByte s).cmdIn = s.cmdIn := rfl
@[simp] theorem drainByte_dataIn : (drainByte s).dataIn = s.dataIn := rfl
@[simp] theorem drainByte_rspOut : (drainByte s).rspOut = s.rspOut := rfl
@[simp] theorem drainByte_rspReady : (drainByte s).rspReady = s.rspReady := rfl
@[simp] theorem drainByte_rst : (drainByte s).rst = s.rst := rfl
@[simp] theorem drainByte_calls : (drainByte s).calls = s.calls := rfl
@[simp] theorem drainByte_hresets : (drainByte s).hresets = s.hresets := rfl

/-! ### absorbByte -/

@[simp] theorem absorbByte_cfgValid (b : Byte) : (absorbByte b s).cfgValid = s.cfgValid := rfl
@[simp] theorem absorbByte_seed (b : Byte) : (absorbByte b s).seed = s.seed := rfl
@[simp] theorem absorbByte_width (b : Byte) : (absorbByte b s).width = s.width := rfl
@[simp] theorem absorbByte_S (b : Byte) : (absorbByte b s).S = s.S := rfl
@[simp] theorem absorbByte_P (b : Byte) : (absorbByte b s).P = s.P ++ [b] := rfl
@[simp] theorem absorbByte_T (b : Byte) : (absorbByte b s).T = if s.T.length < 16 then s.T ++ [b] else s.T.drop 1 ++ [b] := rfl
@[simp] theorem absorbByte_L (b : Byte) : (absorbByte b s).L = s.L := rfl
@[simp] theorem absorbByte_stream (b : Byte) : (absorbByte b s).stream = s.stream ++ [b] := rfl
@[simp] theorem absorbByte_phase (b : Byte) : (absorbByte b s).phase = s.phase := rfl
@[simp] theorem absorbByte_rem (b : Byte) : (absorbByte b s).rem = s.rem - 1 := rfl
@[simp] theorem absorbByte_opHold (b : Byte) : (absorbByte b s).opHold = s.opHold := rfl
@[simp] theorem absorbByte_rspHold (b : Byte) : (absorbByte b s).rspHold = s.rspHold := rfl
@[simp] theorem absorbByte_cmdIn (b : Byte) : (absorbByte b s).cmdIn = s.cmdIn := rfl
@[simp] theorem absorbByte_dataIn (b : Byte) : (absorbByte b s).dataIn = s.dataIn := rfl
@[simp] theorem absorbByte_rspOut (b : Byte) : (absorbByte b s).rspOut = s.rspOut := rfl
@[simp] theorem absorbByte_rspReady (b : Byte) : (absorbByte b s).rspReady = s.rspReady := rfl
@[simp] theorem absorbByte_rst (b : Byte) : (absorbByte b s).rst = s.rst := rfl
@[simp] theorem absorbByte_calls (b : Byte) : (absorbByte b s).calls = s.calls := rfl
@[simp] theorem absorbByte_hresets (b : Byte) : (absorbByte b s).hresets = s.hresets := rfl

/-! ### presentWord -/

@[simp] theorem presentWord_cfgValid (w : CmdWord) : (presentWord w s).cfgValid = s.cfgValid := rfl
@[simp] theorem presentWord_seed (w : CmdWord) : (presentWord w s).seed = s.seed := rfl
@[simp] theorem presentWord_width (w : CmdWord) : (presentWord w s).width = s.width := rfl
@[simp] theorem presentWord_S (w : CmdWord) : (presentWord w s).S = s.S := rfl
@[simp] theorem presentWord_P (w : CmdWord) : (presentWord w s).P = s.P := rfl
@[simp] theorem presentWord_T (w : CmdWord) : (presentWord w s).T = s.T := rfl
@[simp] theorem presentWord_L (w : CmdWord) : (presentWord w s).L = s.L := rfl
@[simp] theorem presentWord_stream (w : CmdWord) : (presentWord w s).stream = s.stream := rfl
@[simp] theorem presentWord_phase (w : CmdWord) : (presentWord w s).phase = .idle := rfl
@[simp] theorem presentWord_rem (w : CmdWord) : (presentWord w s).rem = s.rem := rfl
@[simp] theorem presentWord_opHold (w : CmdWord) : (presentWord w s).opHold = s.opHold := rfl
@[simp] theorem presentWord_rspHold (w : CmdWord) : (presentWord w s).rspHold = s.rspHold := rfl
@[simp] theorem presentWord_cmdIn (w : CmdWord) : (presentWord w s).cmdIn = w :: s.cmdIn := rfl
@[simp] theorem presentWord_dataIn (w : CmdWord) : (presentWord w s).dataIn = s.dataIn := rfl
@[simp] theorem presentWord_rspOut (w : CmdWord) : (presentWord w s).rspOut = s.rspOut := rfl
@[simp] theorem presentWord_rspReady (w : CmdWord) : (presentWord w s).rspReady = s.rspReady := rfl
@[simp] theorem presentWord_rst (w : CmdWord) : (presentWord w s).rst = false := rfl
@[simp] theorem presentWord_calls (w : CmdWord) : (presentWord w s).calls = s.calls := rfl
@[simp] theorem presentWord_hresets (w : CmdWord) : (presentWord w s).hresets = s.hresets := rfl

/-! ### hreset -/

@[simp] theorem hreset_cfgValid : (hreset s).cfgValid = false := rfl
@[simp] theorem hreset_seed : (hreset s).seed = Config.freeSeed s.hresets := rfl
@[simp] theorem hreset_width : (hreset s).width = Config.freeWidth s.hresets := rfl
@[simp] theorem hreset_S : (hreset s).S = Config.freeS s.hresets := rfl
@[simp] theorem hreset_P : (hreset s).P = (Config.freeP s.hresets).take 255 := rfl
@[simp] theorem hreset_T : (hreset s).T = (Config.freeT s.hresets).take 16 := rfl
@[simp] theorem hreset_L : (hreset s).L = Config.freeL s.hresets := rfl
@[simp] theorem hreset_stream : (hreset s).stream = Config.freeStream s.hresets := rfl
@[simp] theorem hreset_phase : (hreset s).phase = .idle := rfl
@[simp] theorem hreset_rem : (hreset s).rem = 0 := rfl
@[simp] theorem hreset_opHold : (hreset s).opHold = Config.freeOpHold s.hresets := rfl
@[simp] theorem hreset_rspHold : (hreset s).rspHold = Config.freeRspHold s.hresets := rfl
@[simp] theorem hreset_cmdIn : (hreset s).cmdIn = s.cmdIn := rfl
@[simp] theorem hreset_dataIn : (hreset s).dataIn = s.dataIn := rfl
@[simp] theorem hreset_rspOut : (hreset s).rspOut = s.rspOut := rfl
@[simp] theorem hreset_rspReady : (hreset s).rspReady = s.rspReady := rfl
@[simp] theorem hreset_rst : (hreset s).rst = s.rst := rfl
@[simp] theorem hreset_calls : (hreset s).calls = s.calls := rfl
@[simp] theorem hreset_hresets : (hreset s).hresets = s.hresets + 1 := rfl

end Sys2Proof.Machine
end

