-- ==== Sys2Proof/Laws/Ops.lean ====
section
/-! SUPPORT. The shared operations: what each can do, said once. -/

namespace Sys2Proof.Machine

/-- The two fields of a response word (R79). -/
theorem rspStatus_responseWord (st : Status) (pl : BitVec 128) : rspStatus (responseWord st pl) = st.code := by
  apply BitVec.eq_of_getLsbD_eq
  intro i hi
  refine (BitVec.getLsbD_extractLsb' ..).trans ?_
  have h : (st.code ++ pl).getLsbD (128 + i) = st.code.getLsbD i := BitVec.getLsbD_append.trans (by simp)
  simpa [hi, responseWord] using h

theorem rspPayload_responseWord (st : Status) (pl : BitVec 128) : rspPayload (responseWord st pl) = pl := by
  apply BitVec.eq_of_getLsbD_eq
  intro i hi
  refine (BitVec.getLsbD_extractLsb' ..).trans ?_
  have h : (st.code ++ pl).getLsbD (0 + i) = pl.getLsbD i := BitVec.getLsbD_append.trans (by simp [hi])
  simpa [hi, responseWord] using h

/-- A command that needs an accumulator: NOT_INIT without one, its own effect with one (R203). -/
theorem whenConstructed_of_valid {s : State} (k : Result) (h : s.cfgValid = true) : whenConstructed s k = k := by
  simp [whenConstructed, h]

theorem whenConstructed_of_not {s : State} (k : Result) (h : s.cfgValid = false) :
    whenConstructed s k = .next (raise .notInit s) := by
  simp [whenConstructed, h]

/-- A command that needs an accumulator answers a next state when its effect does. -/
theorem whenConstructed_next {s : State} {k : Result} (h : ∃ t, k = .next t) :
    ∃ t, whenConstructed s k = .next t := by
  unfold whenConstructed
  split
  · exact ⟨_, rfl⟩
  · exact h

/-- Taking an exception keeps the architectural state, the ghost, the calls and the channels (R210). -/
theorem raise_keeps (e : Status) (s : State) :
    (raise e s).arch = s.arch ∧ (raise e s).stream = s.stream ∧ (raise e s).calls = s.calls ∧
      (raise e s).dataIn = s.dataIn ∧ (raise e s).cmdIn = s.cmdIn ∧ (raise e s).rspOut = s.rspOut :=
  ⟨rfl, rfl, rfl, rfl, rfl, rfl⟩

/-- A digest command that does not fault, as one equation (R150). -/
theorem digestCommand_eq (bk : Backend) (op : BitVec 8) (shape : Bytes16 → BitVec 128) (s : State) :
    digestCommand bk op shape s = .next { s with
      opHold := op, calls := s.calls ++ [.fin s.seed s.S s.P s.T s.L]
      rspHold := responseWord .ok (shape (finalize bk s)), phase := .resp } := rfl

/-- HRESET leaves the buffers within their bounds (R25, R27). -/
theorem hreset_bounded (s : State) : (hreset s).buffersBounded :=
  ⟨by simp only [hreset_P, List.length_take]; omega, by simp only [hreset_T, List.length_take]; omega⟩

/-- The shape of each digest opcode (R83). -/
@[simp] theorem shapeDigest_sum (w : Width) (F : Bytes16) :
    shapeDigest 0x30 w F = some (digestBytesPayload (widthBytes w) F) := rfl

@[simp] theorem shapeDigest_sumInto (w : Width) (F : Bytes16) :
    shapeDigest 0x31 w F = some (digestBytesPayload 16 F) := rfl

@[simp] theorem shapeDigest_sum64 (w : Width) (F : Bytes16) :
    shapeDigest 0x32 w F = some (digestIntPayload 8 F) := rfl

@[simp] theorem shapeDigest_sum32 (w : Width) (F : Bytes16) :
    shapeDigest 0x33 w F = some (digestIntPayload 4 F) := rfl

/-- The host's actions touch only its own side of the channels (R249). -/
theorem hostAct_keeps (a : HostAction) (s : State) :
    (hostAct a s).arch = s.arch ∧ (hostAct a s).phase = s.phase ∧ (hostAct a s).rem = s.rem ∧
      (hostAct a s).rspHold = s.rspHold ∧ (hostAct a s).rspOut = s.rspOut ∧ (hostAct a s).calls = s.calls := by
  cases a <;> exact ⟨rfl, rfl, rfl, rfl, rfl, rfl⟩

end Sys2Proof.Machine
end

