-- ==== Sys2Proof/Laws/Fold.lean ====
section
/-! SUPPORT. The folds of a byte sequence: splitting them, and that bytes beyond the folded blocks do not matter. -/

namespace Sys2Proof.Machine

theorem blockOf_append_of_le {X : List Byte} (Y : List Byte) (h : 256 ≤ X.length) :
    blockOf ((X ++ Y).take 256) = blockOf (X.take 256) := by
  rw [List.take_append_of_le_length h]

/-- Folding `a` blocks and then `b` more is folding `a + b` blocks. -/
theorem foldFrom_add (bk : Backend) (a b : Nat) (S : Bytes256) (X : List Byte) :
    foldFrom bk (a + b) S X = foldFrom bk b (foldFrom bk a S X) (X.drop (256 * a)) := by
  induction a generalizing S X with
  | zero => simp [foldFrom]
  | succ a ih =>
    rw [Nat.succ_add]
    simp only [foldFrom, ih, List.drop_drop]
    congr 2
    ring

/-- The calls of those folds, likewise. -/
theorem foldCalls_add (bk : Backend) (a b : Nat) (S : Bytes256) (X : List Byte) :
    foldCalls bk (a + b) S X = foldCalls bk a S X ++ foldCalls bk b (foldFrom bk a S X) (X.drop (256 * a)) := by
  induction a generalizing S X with
  | zero => simp [foldFrom, foldCalls]
  | succ a ih =>
    rw [Nat.succ_add]
    simp only [foldFrom, foldCalls, ih, List.drop_drop, List.cons_append]
    congr 4
    ring

/-- Bytes behind the folded blocks do not matter. -/
theorem foldFrom_append (bk : Backend) (q : Nat) (S : Bytes256) (X Y : List Byte) (h : 256 * q ≤ X.length) :
    foldFrom bk q S (X ++ Y) = foldFrom bk q S X := by
  induction q generalizing S X with
  | zero => rfl
  | succ q ih =>
    have h1 : 256 ≤ X.length := by omega
    simp only [foldFrom]
    rw [blockOf_append_of_le Y h1, List.drop_append_of_le_length h1, ih]
    simp only [List.length_drop]
    omega

theorem foldCalls_append (bk : Backend) (q : Nat) (S : Bytes256) (X Y : List Byte) (h : 256 * q ≤ X.length) :
    foldCalls bk q S (X ++ Y) = foldCalls bk q S X := by
  induction q generalizing S X with
  | zero => rfl
  | succ q ih =>
    have h1 : 256 ≤ X.length := by omega
    simp only [foldCalls]
    rw [blockOf_append_of_le Y h1, List.drop_append_of_le_length h1, ih]
    simp only [List.length_drop]
    omega

@[simp] theorem length_foldCalls (bk : Backend) (q : Nat) (S : Bytes256) (X : List Byte) :
    (foldCalls bk q S X).length = q := by
  induction q generalizing S X with
  | zero => rfl
  | succ q ih => simp [foldCalls, ih]

theorem mixCalls_append (a b : List BackendCall) : mixCalls (a ++ b) = mixCalls a + mixCalls b := by
  simp [mixCalls]

theorem finCalls_append (a b : List BackendCall) : finCalls (a ++ b) = finCalls a + finCalls b := by
  simp [finCalls]

@[simp] theorem mixCalls_foldCalls (bk : Backend) (q : Nat) (S : Bytes256) (X : List Byte) :
    mixCalls (foldCalls bk q S X) = q := by
  induction q generalizing S X with
  | zero => rfl
  | succ q ih =>
    have h := ih (bk.mix S (blockOf (X.take 256))) (X.drop 256)
    simp only [mixCalls] at h
    simp [mixCalls, foldCalls, h]

@[simp] theorem finCalls_foldCalls (bk : Backend) (q : Nat) (S : Bytes256) (X : List Byte) :
    finCalls (foldCalls bk q S X) = 0 := by
  induction q generalizing S X with
  | zero => rfl
  | succ q ih =>
    have h := ih (bk.mix S (blockOf (X.take 256))) (X.drop 256)
    simp only [finCalls] at h
    simp [finCalls, foldCalls, h]

end Sys2Proof.Machine
end

