-- ==== Sys2Proof/Laws/Write.lean ====
section
/-! SUPPORT. The five steps of WRITE: one lemma per step, and what they come to together (R118). -/

namespace Sys2Proof.Machine

/-- Both branches of step 2 compute one function (R114). -/
theorem slideWindow_eq (T B : List Byte) : slideWindow T B = lastBytes 16 (T ++ B) := by
  unfold slideWindow
  split
  · rename_i h
    have e : memRead (B.length - 16) 16 B = B.drop (B.length - 16) := by
      rw [memRead, List.take_of_length_le]
      simp only [List.length_drop]
      omega
    have e2 : (T ++ B).length - 16 = T.length + (B.length - 16) := by simp only [List.length_append]; omega
    rw [e, lastBytes, e2, List.drop_append]
    simp [List.drop_eq_nil_of_le]
  · rfl

/-- Step 3 on an empty buffer does nothing (R115). -/
theorem writeStep3_of_empty (bk : Backend) (B : List Byte) (s : State) (h : s.P = []) :
    writeStep3 bk B s = (s, B) := by
  simp [writeStep3, h]

/-- Step 3 on a partly filled buffer that the input does not fill (R115). -/
theorem writeStep3_of_short (bk : Backend) (B : List Byte) (s : State) (h0 : 0 < s.P.length)
    (h : s.P.length + B.length < 256) : writeStep3 bk B s = ({ s with P := s.P ++ B }, []) := by
  have hk : min B.length (256 - s.P.length) = B.length := by omega
  simp only [writeStep3, if_pos h0, hk, memRead_zero, List.take_length, memWrite_length, List.length_append,
    List.drop_length]
  rw [if_neg (by omega)]

/-- Step 3 on a partly filled buffer that the input fills: one fold (R115). -/
theorem writeStep3_of_fill (bk : Backend) (B : List Byte) (s : State) (h0 : 0 < s.P.length)
    (hP : s.P.length < 256) (h : 256 ≤ s.P.length + B.length) :
    writeStep3 bk B s =
      ({ foldBlock bk (blockOf ((s.P ++ B).take 256)) s with P := [] }, (s.P ++ B).drop 256) := by
  have hk : min B.length (256 - s.P.length) = 256 - s.P.length := by omega
  have hl : (s.P ++ B.take (256 - s.P.length)).length = 256 := by
    simp only [List.length_append, List.length_take]
    omega
  have ht : (s.P ++ B).take 256 = s.P ++ B.take (256 - s.P.length) := by
    rw [List.take_append, List.take_of_length_le (by omega)]
  have hd : (s.P ++ B).drop 256 = B.drop (256 - s.P.length) := by
    rw [List.drop_append, List.drop_eq_nil_of_le (by omega), List.nil_append]
  simp only [writeStep3, if_pos h0, hk, memRead_zero, memWrite_length, if_pos hl, ht, hd, foldBuffer]
  rw [List.take_of_length_le (le_of_eq hl)]
  rfl

/-- Step 4 folds as many whole blocks as its fuel says, when they are there (R116). -/
theorem writeStep4_eq (bk : Backend) (k : Nat) (B : List Byte) (s : State) (h : 256 * k ≤ B.length) :
    writeStep4 bk k B s =
      ({ s with S := foldFrom bk k s.S B, calls := s.calls ++ foldCalls bk k s.S B }, B.drop (256 * k)) := by
  induction k generalizing B s with
  | zero => simp [writeStep4, foldFrom, foldCalls]
  | succ k ih =>
    have h1 : 256 ≤ B.length := by omega
    have h2 : 256 * k ≤ (B.drop 256).length := by simp only [List.length_drop]; omega
    rw [writeStep4, if_pos h1, ih _ _ h2]
    simp only [foldFrom, foldCalls, foldBlock_S, foldBlock_calls, List.drop_drop, List.append_assoc,
      List.cons_append, List.nil_append]
    congr 2
    ring

/-- Step 5 after step 4 leaves in the empty buffer exactly what is left of the input (R117). -/
theorem writeStep5_of_empty (B : List Byte) (s : State) (h : s.P = []) : writeStep5 B s = { s with P := B } := by
  unfold writeStep5
  split
  · rfl
  · rename_i hB
    have : B = [] := by simpa using hB
    rw [this, ← h]

/-- Steps 4 and 5 from an empty buffer. -/
theorem writeSteps45_eq (bk : Backend) (B : List Byte) (s : State) (h : s.P = []) :
    writeStep5 (writeStep4 bk (B.length / 256) B s).2 (writeStep4 bk (B.length / 256) B s).1 =
      { s with
        S := foldFrom bk (B.length / 256) s.S B
        P := B.drop (256 * (B.length / 256))
        calls := s.calls ++ foldCalls bk (B.length / 256) s.S B } := by
  rw [writeStep4_eq bk _ _ _ (Nat.mul_div_le _ _), writeStep5_of_empty _ _ (by simpa using h)]

/-- Steps 3 to 5 in closed form (R118): the whole blocks of `P ++ B` are folded, the rest is the buffer. -/
theorem absorbPayload_eq (bk : Backend) (B : List Byte) (s : State) (hP : s.P.length < 256) :
    absorbPayload bk B s =
      { s with
        S := foldFrom bk ((s.P ++ B).length / 256) s.S (s.P ++ B)
        P := (s.P ++ B).drop (256 * ((s.P ++ B).length / 256))
        calls := s.calls ++ foldCalls bk ((s.P ++ B).length / 256) s.S (s.P ++ B) } := by
  unfold absorbPayload
  by_cases h0 : s.P = []
  · rw [writeStep3_of_empty bk B s h0]
    simp only
    rw [writeSteps45_eq bk B s h0]
    simp [h0]
  · have hpos : 0 < s.P.length := List.length_pos_of_ne_nil h0
    by_cases h : s.P.length + B.length < 256
    · have hq : (s.P ++ B).length / 256 = 0 := by simp only [List.length_append]; omega
      rw [writeStep3_of_short bk B s hpos h, hq]
      simp [writeStep4, writeStep5, foldFrom, foldCalls]
    · have hge : 256 ≤ s.P.length + B.length := by omega
      rw [writeStep3_of_fill bk B s hpos hP hge]
      simp only
      rw [writeSteps45_eq bk _ _ rfl]
      have hq : (s.P ++ B).length / 256 = ((s.P ++ B).drop 256).length / 256 + 1 := by
        simp only [List.length_append, List.length_drop]
        omega
      rw [hq]
      generalize hX : s.P ++ B = X
      generalize hk : (X.drop 256).length / 256 = k
      simp only [foldFrom, foldCalls, foldBlock_S, foldBlock_calls, List.drop_drop, List.append_assoc,
        List.cons_append, List.nil_append, show 256 + 256 * k = 256 * (k + 1) by ring]
      rfl

/-- A WRITE's five steps and its ghost in closed form (R118). -/
theorem writePayload_eq (bk : Backend) (len : U64) (B : List Byte) (s : State) (hP : s.P.length < 256) :
    writePayload bk len B s =
      { s with
        S := foldFrom bk ((s.P ++ B).length / 256) s.S (s.P ++ B)
        P := (s.P ++ B).drop (256 * ((s.P ++ B).length / 256))
        T := lastBytes 16 (s.T ++ B)
        L := s.L + len
        stream := s.stream ++ B
        calls := s.calls ++ foldCalls bk ((s.P ++ B).length / 256) s.S (s.P ++ B) } := by
  unfold writePayload
  rw [absorbPayload_eq bk B _ (by simpa using hP)]
  simp [writeStep2, writeStep1, slideWindow_eq]

/-- What a WRITE can answer, by its tests (R127, R128): it never stops the machine. -/
theorem writeCommand_next (bk : Backend) (len : U64) (s : State) : ∃ t, writeCommand bk len s = .next t := by
  unfold writeCommand
  split
  · exact ⟨_, rfl⟩
  · split
    · exact ⟨_, rfl⟩
    · split <;> exact ⟨_, rfl⟩

/-- A faulting WRITE leaves the architectural state, the ghost and the calls as they are (R127, R210). -/
theorem faultWrite_keeps (e : Status) (len : U64) (s : State) :
    (faultWrite e len s).arch = s.arch ∧ (faultWrite e len s).stream = s.stream ∧
      (faultWrite e len s).calls = s.calls := by
  unfold faultWrite
  split <;> exact ⟨rfl, rfl, rfl⟩

end Sys2Proof.Machine
end

