-- ==== Sys2Proof/Laws/Exec.lean ====
section
/-! SUPPORT. `exec` and `step`: every command answers a next state, what no command touches, and what a step can be. -/

namespace Sys2Proof.Machine

/-- No command stops the machine: each has its effect, takes its exception, or waits for its payload (R209, R210). -/
theorem exec_next (i : Instr) (s : State) : ∃ t, exec i s = .next t := by
  cases i with
  | new seed => exact ⟨_, rfl⟩
  | new64 seed => exact ⟨_, rfl⟩
  | new32 seed => exact ⟨_, rfl⟩
  | write len => exact writeCommand_next _ _ _
  | reset => exact whenConstructed_next ⟨_, rfl⟩
  | sum => exact whenConstructed_next ⟨_, rfl⟩
  | sumInto dstLen =>
    refine whenConstructed_next ?_
    split
    · exact ⟨_, rfl⟩
    · split <;> exact ⟨_, rfl⟩
  | sum64 =>
    refine whenConstructed_next ?_
    split <;> exact ⟨_, rfl⟩
  | sum32 => exact whenConstructed_next ⟨_, rfl⟩
  | size => exact whenConstructed_next ⟨_, rfl⟩
  | blksz => exact whenConstructed_next ⟨_, rfl⟩

/-- What no command touches: the commands presented, the responses accepted, the pins, the HRESET count. -/
def SameChannels (s t : State) : Prop :=
  t.cmdIn = s.cmdIn ∧ t.rspOut = s.rspOut ∧ t.rspReady = s.rspReady ∧ t.rst = s.rst ∧ t.hresets = s.hresets

theorem whenConstructed_channels {s t : State} {k : Result} (h : whenConstructed s k = .next t)
    (hk : k = .next t → SameChannels s t) : SameChannels s t := by
  unfold whenConstructed at h
  split at h
  · cases h; exact ⟨rfl, rfl, rfl, rfl, rfl⟩
  · exact hk h

theorem absorbPayload_channels (bk : Backend) (B : List Byte) (s : State) :
    SameChannels s (absorbPayload bk B s) := by
  have h3 : SameChannels s (writeStep3 bk B s).1 := by
    unfold writeStep3
    split
    · dsimp only
      split <;> exact ⟨rfl, rfl, rfl, rfl, rfl⟩
    · exact ⟨rfl, rfl, rfl, rfl, rfl⟩
  have h4 : ∀ (k : Nat) (B : List Byte) (u : State), SameChannels u (writeStep4 bk k B u).1 := by
    intro k
    induction k with
    | zero => intro B u; exact ⟨rfl, rfl, rfl, rfl, rfl⟩
    | succ k ih =>
      intro B u
      unfold writeStep4
      split
      · exact ih _ (foldBlock bk _ u)
      · exact ⟨rfl, rfl, rfl, rfl, rfl⟩
  have h5 : ∀ (B : List Byte) (u : State), SameChannels u (writeStep5 B u) := by
    intro B u
    unfold writeStep5
    split <;> exact ⟨rfl, rfl, rfl, rfl, rfl⟩
  obtain ⟨a1, a2, a3, a4, a5⟩ := h3
  obtain ⟨b1, b2, b3, b4, b5⟩ := h4 ((writeStep3 bk B s).2.length / 256) (writeStep3 bk B s).2 (writeStep3 bk B s).1
  obtain ⟨c1, c2, c3, c4, c5⟩ := h5
    (writeStep4 bk ((writeStep3 bk B s).2.length / 256) (writeStep3 bk B s).2 (writeStep3 bk B s).1).2
    (writeStep4 bk ((writeStep3 bk B s).2.length / 256) (writeStep3 bk B s).2 (writeStep3 bk B s).1).1
  exact ⟨(c1.trans b1).trans a1, (c2.trans b2).trans a2, (c3.trans b3).trans a3, (c4.trans b4).trans a4,
    (c5.trans b5).trans a5⟩

theorem writeCommand_channels (bk : Backend) (len : U64) (s t : State) (h : writeCommand bk len s = .next t) :
    SameChannels s t := by
  unfold writeCommand at h
  split at h
  · cases h; unfold faultWrite; split <;> exact ⟨rfl, rfl, rfl, rfl, rfl⟩
  · split at h
    · cases h; unfold faultWrite; split <;> exact ⟨rfl, rfl, rfl, rfl, rfl⟩
    · split at h
      · cases h
        obtain ⟨h1, h2, h3, h4, h5⟩ := absorbPayload_channels bk (payloadBytes len s)
          (writeStep2 (payloadBytes len s) (writeStep1 len (takePayload len s)))
        exact ⟨h1, h2, h3, h4, h5⟩
      · cases h; exact ⟨rfl, rfl, rfl, rfl, rfl⟩

/-- The frame that all commands share. -/
theorem exec_channels (i : Instr) (s t : State) (h : exec i s = .next t) : SameChannels s t := by
  cases i with
  | new seed => cases h; exact ⟨rfl, rfl, rfl, rfl, rfl⟩
  | new64 seed => cases h; exact ⟨rfl, rfl, rfl, rfl, rfl⟩
  | new32 seed => cases h; exact ⟨rfl, rfl, rfl, rfl, rfl⟩
  | write len => exact writeCommand_channels _ _ _ _ h
  | reset => exact whenConstructed_channels h fun e => by cases e; exact ⟨rfl, rfl, rfl, rfl, rfl⟩
  | sum => exact whenConstructed_channels h fun e => by cases e; exact ⟨rfl, rfl, rfl, rfl, rfl⟩
  | sumInto dstLen =>
    refine whenConstructed_channels h fun e => ?_
    split at e
    · cases e; exact ⟨rfl, rfl, rfl, rfl, rfl⟩
    · split at e <;> (cases e; exact ⟨rfl, rfl, rfl, rfl, rfl⟩)
  | sum64 =>
    refine whenConstructed_channels h fun e => ?_
    split at e <;> (cases e; exact ⟨rfl, rfl, rfl, rfl, rfl⟩)
  | sum32 => exact whenConstructed_channels h fun e => by cases e; exact ⟨rfl, rfl, rfl, rfl, rfl⟩
  | size => exact whenConstructed_channels h fun e => by cases e; exact ⟨rfl, rfl, rfl, rfl, rfl⟩
  | blksz => exact whenConstructed_channels h fun e => by cases e; exact ⟨rfl, rfl, rfl, rfl, rfl⟩

/-- What a step can be, said once: HRESET; waiting in IDLE; a command; an illegal word; or an event of the sequencer. -/
theorem step_cases (s : State) :
    (s.rst = true ∧ step s = .next (hreset s)) ∨
    (s.rst = false ∧ s.phase = .idle ∧ s.cmdIn = [] ∧ step s = .next s) ∨
    (∃ w ws i, s.rst = false ∧ s.phase = .idle ∧ s.cmdIn = w :: ws ∧ decode w = .ok i ∧
      step s = exec i { s with cmdIn := ws }) ∨
    (∃ w ws why, s.rst = false ∧ s.phase = .idle ∧ s.cmdIn = w :: ws ∧ decode w = .error why ∧
      step s = .next (raise .illegal { s with cmdIn := ws })) ∨
    (s.rst = false ∧ s.phase ≠ .idle ∧ step s = tick Config.backend s) := by
  cases hr : s.rst with
  | true => exact .inl ⟨rfl, by simp [step, blockStep, hr]⟩
  | false =>
    by_cases hp : s.phase = .idle
    · cases hc : s.cmdIn with
      | nil => exact .inr (.inl ⟨rfl, hp, rfl, by simp [step, blockStep, hr, hp, hc]⟩)
      | cons w ws =>
        cases hd : decode w with
        | ok i =>
          refine .inr (.inr (.inl ⟨w, ws, i, rfl, hp, rfl, hd, ?_⟩))
          simp [step, blockStep, hr, hp, hc, runWord, hd]
        | error why =>
          refine .inr (.inr (.inr (.inl ⟨w, ws, why, rfl, hp, rfl, hd, ?_⟩)))
          simp [step, blockStep, hr, hp, hc, runWord, hd]
    · refine .inr (.inr (.inr (.inr ⟨rfl, hp, ?_⟩)))
      cases hph : s.phase with
      | idle => exact absurd hph hp
      | recv => simp [step, blockStep, hr, hph]
      | fold => simp [step, blockStep, hr, hph]
      | drain => simp [step, blockStep, hr, hph]
      | final => simp [step, blockStep, hr, hph]
      | resp => simp [step, blockStep, hr, hph]

end Sys2Proof.Machine
end

