-- ==== Sys2Proof/Laws/PerInstr.lean ====
section
/-! SUPPORT. Statements for all commands, made per command (LAWS.json). EncodedFields: the word the encoder gives has
exactly the opcode and operand that the independent table of WellFormed.lean gives the command (R72, R73, R74), and
the command is well formed. -/

namespace Sys2Proof.Laws.EncodedFields

/-- The encoded word's fields are the command's raw form, which is well formed (R72 to R75). -/
def Statement (i : Instr) : Prop := CmdWord.fields (encode i) = i.raw ∧ i.wf = true

theorem new (seed : U64) : Statement (.new seed) := ⟨fields_encode _ _ rfl rfl, by rfl⟩
theorem new64 (seed : U64) : Statement (.new64 seed) := ⟨fields_encode _ _ rfl rfl, by rfl⟩
theorem new32 (seed : U64) : Statement (.new32 seed) := ⟨fields_encode _ _ rfl rfl, by rfl⟩
theorem write (len : U64) : Statement (.write len) := ⟨fields_encode _ _ rfl rfl, by rfl⟩
theorem reset : Statement .reset := ⟨fields_encode _ _ rfl rfl, by rfl⟩
theorem sum : Statement .sum := ⟨fields_encode _ _ rfl rfl, by rfl⟩
theorem sumInto (dstLen : U64) : Statement (.sumInto dstLen) := ⟨fields_encode _ _ rfl rfl, by rfl⟩
theorem sum64 : Statement .sum64 := ⟨fields_encode _ _ rfl rfl, by rfl⟩
theorem sum32 : Statement .sum32 := ⟨fields_encode _ _ rfl rfl, by rfl⟩
theorem size : Statement .size := ⟨fields_encode _ _ rfl rfl, by rfl⟩
theorem blksz : Statement .blksz := ⟨fields_encode _ _ rfl rfl, by rfl⟩

end Sys2Proof.Laws.EncodedFields
end

