-- ==== Sys2Proof/Laws/Sequencer.lean ====
section
/-! SUPPORT. The sequencer: what an event can be, said once, and when it stops. -/

namespace Sys2Proof.Machine

/-- What an event can be (R125, R230, R244): HRESET; waiting for the host; a word accepted; a payload byte received; a
`Mix` result; a payload byte discarded; a `Fin` result; a response transferred. -/
theorem tick_cases {bk : Backend} {s t : State} (h : tick bk s = .next t) :
    (s.rst = true ∧ t = hreset s) ∨
    (s.waiting = true ∧ t = s) ∨
    (∃ w ws, s.rst = false ∧ s.phase = .idle ∧ s.cmdIn = w :: ws ∧ t = acceptWord w { s with cmdIn := ws }) ∨
    (∃ b bs, s.rst = false ∧ s.phase = .recv ∧ s.dataIn = b :: bs ∧ t = receiveByte b { s with dataIn := bs }) ∨
    (s.rst = false ∧ s.phase = .fold ∧ s.P.length = 256 ∧ t = takeMixResult (bk.mix s.S (blockOf s.P)) s) ∨
    (∃ b bs, s.rst = false ∧ s.phase = .drain ∧ s.dataIn = b :: bs ∧ t = drainByte { s with dataIn := bs }) ∨
    (∃ pl, s.rst = false ∧ s.phase = .final ∧ shapeDigest s.opHold s.width (finalize bk s) = some pl ∧
      t = respond .ok pl s) ∨
    (s.rst = false ∧ s.phase = .resp ∧ s.rspReady = true ∧ t = transferResponse s) := by
  unfold tick at h
  cases hr : s.rst with
  | true => simp only [hr, if_true] at h; cases h; exact .inl ⟨rfl, rfl⟩
  | false =>
    simp only [hr, Bool.false_eq_true, if_false] at h
    cases hp : s.phase with
    | idle =>
      simp only [hp] at h
      cases hc : s.cmdIn with
      | nil => simp only [hc] at h; cases h; exact .inr (.inl ⟨by simp [State.waiting, hr, hp, hc], rfl⟩)
      | cons w ws => simp only [hc] at h; cases h; exact .inr (.inr (.inl ⟨w, ws, rfl, rfl, rfl, rfl⟩))
    | recv =>
      simp only [hp] at h
      cases hd : s.dataIn with
      | nil => simp only [hd] at h; cases h; exact .inr (.inl ⟨by simp [State.waiting, hr, hp, hd], rfl⟩)
      | cons b bs => simp only [hd] at h; cases h; exact .inr (.inr (.inr (.inl ⟨b, bs, rfl, rfl, rfl, rfl⟩)))
    | fold =>
      simp only [hp] at h
      split at h
      · cases h; exact .inr (.inr (.inr (.inr (.inl ⟨rfl, rfl, ‹_›, rfl⟩))))
      · cases h
    | drain =>
      simp only [hp] at h
      cases hd : s.dataIn with
      | nil => simp only [hd] at h; cases h; exact .inr (.inl ⟨by simp [State.waiting, hr, hp, hd], rfl⟩)
      | cons b bs =>
        simp only [hd] at h; cases h
        exact .inr (.inr (.inr (.inr (.inr (.inl ⟨b, bs, rfl, rfl, rfl, rfl⟩)))))
    | final =>
      simp only [hp, takeFinResult] at h
      split at h
      · cases h; exact .inr (.inr (.inr (.inr (.inr (.inr (.inl ⟨_, rfl, rfl, ‹_›, rfl⟩))))))
      · cases h
    | resp =>
      simp only [hp] at h
      split at h
      · cases h; exact .inr (.inr (.inr (.inr (.inr (.inr (.inr ⟨rfl, rfl, ‹_›, rfl⟩))))))
      · cases h; exact .inr (.inl ⟨by simp_all [State.waiting], rfl⟩)

/-- An event stops only in the two phases that no run reaches (`Fault`). -/
theorem tick_next {bk : Backend} {s : State} (hf : s.phase = .fold → s.P.length = 256)
    (hd : s.phase = .final → (shapeDigest s.opHold s.width (finalize bk s)).isSome) :
    ∃ t, tick bk s = .next t := by
  unfold tick
  cases s.rst with
  | true => exact ⟨_, rfl⟩
  | false =>
    simp only [Bool.false_eq_true, if_false]
    cases hp : s.phase with
    | idle => cases s.cmdIn <;> exact ⟨_, rfl⟩
    | recv => cases s.dataIn <;> exact ⟨_, rfl⟩
    | fold => exact ⟨_, if_pos (hf hp)⟩
    | drain => cases s.dataIn <;> exact ⟨_, rfl⟩
    | final =>
      obtain ⟨pl, h⟩ := Option.isSome_iff_exists.mp (hd hp)
      exact ⟨_, by simp [takeFinResult, h]; rfl⟩
    | resp => cases s.rspReady <;> exact ⟨_, rfl⟩

/-- What an accepted word does (R125): ILLEGAL, an exception of R208, or the beginning of a legal command. -/
theorem acceptWord_cases (w : CmdWord) (s : State) :
    (∃ why, decode w = .error why ∧ acceptWord w s = raise .illegal s) ∨
    (∃ i e, decode w = .ok i ∧ faultOf i s = some e ∧ acceptWord w s = acceptFaulted e i s) ∨
    (∃ i, decode w = .ok i ∧ faultOf i s = none ∧ acceptWord w s = acceptLegal i s) := by
  cases hd : decode w with
  | error why => exact .inl ⟨why, rfl, by simp [acceptWord, hd]⟩
  | ok i =>
    cases hf : faultOf i s with
    | some e => exact .inr (.inl ⟨i, e, rfl, hf, by simp [acceptWord, hd, hf]⟩)
    | none => exact .inr (.inr ⟨i, rfl, hf, by simp [acceptWord, hd, hf]⟩)

/-- What a received byte changes, with the phase that follows (R124, R125). -/
theorem receiveByte_eq (b : Byte) (s : State) :
    receiveByte b s = { s with
      P := s.P ++ [b]
      T := if s.T.length < 16 then s.T ++ [b] else s.T.drop 1 ++ [b]
      rem := s.rem - 1
      stream := s.stream ++ [b]
      phase := if s.P.length + 1 = 256 then .fold else if s.rem - 1 = 0 then .resp else s.phase
      calls := if s.P.length + 1 = 256 then s.calls ++ [.mix s.S (blockOf (s.P ++ [b]))] else s.calls } := by
  unfold receiveByte absorbByte
  simp only [List.length_append, List.length_cons, List.length_nil, Nat.zero_add]
  split
  · rfl
  · split <;> rfl

end Sys2Proof.Machine
end

