-- ==== Sys2Proof/Laws/Run.lean ====
section
/-! SUPPORT. Runs: their events one after another, and how each keeps the account of the commands that are open. -/

namespace Sys2Proof.Machine

/-! ### The events of a run -/

@[simp] theorem runFrom_nil (f : State → Result) (s : State) : runFrom f [] s = .next s := rfl

@[simp] theorem runFrom_host (f : State → Result) (a : HostAction) (es : List RunEvent) (s : State) :
    runFrom f (.host a :: es) s = runFrom f es (hostAct a s) := rfl

/-- A run that goes on past a step of the block. -/
theorem runFrom_step_next {f : State → Result} {es : List RunEvent} {s u : State}
    (h : runFrom f (.step :: es) s = .next u) : ∃ t, f s = .next t ∧ runFrom f es t = .next u := by
  simp only [runFrom, runEvent] at h
  split at h
  · exact ⟨_, ‹_›, h⟩
  · cases h
  · cases h

/-- A run is its first part and then the rest. -/
theorem runFrom_append {f : State → Result} (es es' : List RunEvent) {s u : State} :
    runFrom f (es ++ es') s = .next u ↔ ∃ t, runFrom f es s = .next t ∧ runFrom f es' t = .next u := by
  induction es generalizing s with
  | nil => simp
  | cons e es ih =>
    simp only [List.cons_append, runFrom]
    cases runEvent f e s with
    | next t => exact ih
    | fault r => simp
    | refused r => simp

@[simp] theorem commandsSent_nil : commandsSent [] = 0 := rfl

@[simp] theorem commandsSent_cons_step (es : List RunEvent) : commandsSent (.step :: es) = commandsSent es := by
  simp [commandsSent, RunEvent.isSend]

theorem commandsSent_cons_host (a : HostAction) (es : List RunEvent) :
    commandsSent (.host a :: es) = commandsSent [.host a] + commandsSent es := by
  simp [commandsSent, List.countP_cons]; omega

theorem commandsSent_append (es es' : List RunEvent) :
    commandsSent (es ++ es') = commandsSent es + commandsSent es' := List.countP_append

/-! ### The account of open commands -/

/-- The commands answered and the commands open, together: what a run can only lose by an HRESET. -/
def State.commandsKnown (s : State) : Nat := s.rspOut.length + s.commandsOpen

theorem commandsInProgress_of_idle {s : State} (h : s.phase = .idle) : s.commandsInProgress = 0 := by
  simp [State.commandsInProgress, h]

theorem commandsInProgress_of_busy {s : State} (h : s.phase ≠ .idle) : s.commandsInProgress = 1 := by
  cases hp : s.phase <;> simp_all [State.commandsInProgress]

theorem commandsInProgress_eq_zero {s : State} : s.commandsInProgress = 0 ↔ s.phase = .idle := by
  cases hp : s.phase <;> simp [State.commandsInProgress, hp]

/-- A host action adds the command it sends, and nothing else, to the account. -/
theorem hostAct_commandsKnown (a : HostAction) (s : State) :
    (hostAct a s).commandsKnown = s.commandsKnown + commandsSent [.host a] := by
  cases a with
  | sendCommand w =>
    have h : (hostAct (.sendCommand w) s).commandsInProgress = s.commandsInProgress := rfl
    simp [State.commandsKnown, State.commandsOpen, commandsSent, RunEvent.isSend, h]
    simp [hostAct]
    omega
  | _ => rfl

/-- Every command leaves IDLE: its response, or its payload, is awaited (R104, R125). -/
theorem exec_phase {i : Instr} {s t : State} (h : exec i s = .next t) :
    t.phase = .resp ∨ t.phase = .recv ∨ t.phase = .drain := by
  have hw : ∀ {s t : State} {k : Result}, whenConstructed s k = .next t → (k = .next t → t.phase = .resp) →
      t.phase = .resp ∨ t.phase = .recv ∨ t.phase = .drain := by
    intro s t k h hk
    unfold whenConstructed at h
    split at h
    · cases h; exact .inl rfl
    · exact .inl (hk h)
  have hf : ∀ (e : Status) (len : U64) (s : State), (faultWrite e len s).phase = .resp ∨
      (faultWrite e len s).phase = .recv ∨ (faultWrite e len s).phase = .drain := by
    intro e len s
    unfold faultWrite
    split
    · exact .inl rfl
    · exact .inr (.inr rfl)
  cases i with
  | new seed => cases h; exact .inl rfl
  | new64 seed => cases h; exact .inl rfl
  | new32 seed => cases h; exact .inl rfl
  | write len =>
    simp only [exec, execWrite, writeCommand] at h
    split at h
    · cases h; exact hf _ _ _
    · split at h
      · cases h; exact hf _ _ _
      · split at h
        · cases h; exact .inl rfl
        · cases h; exact .inr (.inl rfl)
  | reset => exact hw h fun e => by cases e; rfl
  | sum => exact hw h fun e => by cases e; rfl
  | sumInto dstLen =>
    refine hw h fun e => ?_
    split at e
    · cases e; rfl
    · split at e <;> (cases e; rfl)
  | sum64 =>
    refine hw h fun e => ?_
    split at e <;> (cases e; rfl)
  | sum32 => exact hw h fun e => by cases e; rfl
  | size => exact hw h fun e => by cases e; rfl
  | blksz => exact hw h fun e => by cases e; rfl

/-- An accepted word leaves IDLE too, and touches neither channel of words (R125). -/
theorem acceptWord_keeps (w : CmdWord) (s : State) :
    (acceptWord w s).phase ≠ .idle ∧ (acceptWord w s).cmdIn = s.cmdIn ∧ (acceptWord w s).rspOut = s.rspOut := by
  rcases acceptWord_cases w s with ⟨why, _, h⟩ | ⟨i, e, _, _, h⟩ | ⟨i, _, _, h⟩ <;> rw [h]
  · exact ⟨by simp, rfl, rfl⟩
  · cases i with
    | write len =>
      simp only [acceptFaulted]
      split <;> exact ⟨by simp, rfl, rfl⟩
    | _ => exact ⟨by simp [acceptFaulted], rfl, rfl⟩
  · cases i with
    | write len =>
      simp only [acceptLegal]
      split <;> exact ⟨by simp, rfl, rfl⟩
    | _ => exact ⟨by simp [acceptLegal], rfl, rfl⟩

/-- An HRESET loses the command in progress, if there is one, and nothing else of the account (R231). -/
theorem hreset_commandsKnown (s : State) : (hreset s).commandsKnown + s.commandsInProgress = s.commandsKnown := by
  have h : (hreset s).commandsInProgress = 0 := rfl
  simp only [State.commandsKnown, State.commandsOpen, h, hreset_rspOut, hreset_cmdIn]
  omega

/-- An event that keeps the words on their channels and stays out of IDLE keeps the account. -/
theorem commandsKnown_of_busy {s t : State} (hs : s.phase ≠ .idle) (ht : t.phase ≠ .idle) (hc : t.cmdIn = s.cmdIn)
    (hr : t.rspOut = s.rspOut) : t.commandsKnown = s.commandsKnown := by
  simp only [State.commandsKnown, State.commandsOpen, hc, hr, commandsInProgress_of_busy hs, commandsInProgress_of_busy ht]

/-- Taking a word off the channel and leaving IDLE keeps the account. -/
theorem commandsKnown_of_accept {s t : State} {w : CmdWord} (hs : s.phase = .idle) (ht : t.phase ≠ .idle)
    (hc : s.cmdIn = w :: t.cmdIn) (hr : t.rspOut = s.rspOut) : t.commandsKnown = s.commandsKnown := by
  simp only [State.commandsKnown, State.commandsOpen, hc, hr, List.length_cons, commandsInProgress_of_idle hs,
    commandsInProgress_of_busy ht, Nat.add_zero]

/-- An event of the sequencer out of HRESET keeps the account. -/
theorem tick_commandsKnown {bk : Backend} {s t : State} (h : tick bk s = .next t) (hr : s.rst = false) :
    t.commandsKnown = s.commandsKnown := by
  rcases tick_cases h with ⟨h1, _⟩ | ⟨_, rfl⟩ | ⟨w, ws, _, hp, hc, rfl⟩ | ⟨b, bs, _, hp, _, rfl⟩ | ⟨_, hp, _, rfl⟩ |
    ⟨b, bs, _, hp, _, rfl⟩ | ⟨pl, _, hp, _, rfl⟩ | ⟨_, hp, _, rfl⟩
  · rw [hr] at h1; cases h1
  · rfl
  · obtain ⟨h1, h2, h3⟩ := acceptWord_keeps w { s with cmdIn := ws }
    exact commandsKnown_of_accept hp h1 (by rw [h2]; exact hc) h3
  · refine commandsKnown_of_busy (by simp [hp]) ?_ ?_ ?_ <;> rw [receiveByte_eq]
    dsimp only
    split
    · simp
    · split <;> simp [hp]
  · refine commandsKnown_of_busy (by simp [hp]) ?_ rfl rfl
    simp only [takeMixResult]
    split <;> simp
  · refine commandsKnown_of_busy (by simp [hp]) ?_ rfl rfl
    simp only [drainByte]
    split <;> simp
  · exact commandsKnown_of_busy (by simp [hp]) (by simp) rfl rfl
  · have h0 : (transferResponse s).commandsInProgress = 0 := rfl
    have h1 := commandsInProgress_of_busy (s := s) (by simp [hp])
    simp only [State.commandsKnown, State.commandsOpen, h0, h1, transferResponse_rspOut, transferResponse_cmdIn,
      List.length_append, List.length_singleton]
    omega

/-- A step out of HRESET keeps the account. -/
theorem step_commandsKnown {s t : State} (h : step s = .next t) (hr : s.rst = false) :
    t.commandsKnown = s.commandsKnown := by
  rcases step_cases s with ⟨h1, _⟩ | ⟨_, _, _, e⟩ | ⟨w, ws, i, _, hp, hc, _, e⟩ | ⟨w, ws, why, _, hp, hc, _, e⟩ |
    ⟨_, _, e⟩
  · rw [hr] at h1; cases h1
  · rw [e] at h; cases h; rfl
  · rw [e] at h
    obtain ⟨h1, h2, _⟩ := exec_channels _ _ _ h
    exact commandsKnown_of_accept hp (by rcases exec_phase h with h | h | h <;> simp [h]) (by rw [h1]; exact hc) h2
  · rw [e] at h; cases h
    exact commandsKnown_of_accept hp (by simp) hc rfl
  · exact tick_commandsKnown (e ▸ h) hr

end Sys2Proof.Machine
end

