-- ==== Sys2Proof/Tests/Slice0.lean ====
section
/-! SUPPORT. Tests. Expected values are the spec's: the worked encodings of R93, the examples of the family files and
the vectors of spec/95_test_vectors.md (TV, P), whose TOY backend is written out here; it is test data, not the
hardware (D27). The witnesses at the end meet the premises of each statement together. -/

namespace Sys2Proof.Tests

open Sys2Proof.Machine

/-! ### The TOY backend and the byte sequences of spec/95_test_vectors.md -/

/-- `ramp(m, a, c)`. -/
def ramp (m a c : Nat) : List Byte := (List.range m).map fun i => BitVec.ofNat 8 (a * i + c)

/-- `mix_toy`. -/
def toyMix (s b : Bytes256) : Bytes256 :=
  Vector.ofFn fun i => s.toList.getD ((i.val + 1) % 256) 0 + 3 * b.toList.getD i.val 0 + 1

/-- One digest byte of `fin_toy`: every 16th byte, each weighted by its row. -/
def toyColumn : Nat → Nat → List Byte → Nat
  | 0, _, _ => 0
  | _ + 1, _, [] => 0
  | fuel + 1, row, x :: xs => (x.toNat + 1) * row + toyColumn fuel (row + 1) (xs.drop 15)

/-- `fin_toy`. -/
def toyFin (seed : U64) (s : Bytes256) (p t : List Byte) (L : U64) : Bytes16 :=
  let X := unpackBytes 8 seed ++ s.toList ++ [BitVec.ofNat 8 p.length] ++ p ++ [BitVec.ofNat 8 t.length] ++ t
    ++ unpackBytes 8 L
  Vector.ofFn fun i => BitVec.ofNat 8 (toyColumn 64 1 (X.drop i.val))

/-- The TOY backend. -/
def toy : Backend := ⟨toyMix, toyFin⟩

/-! ### Small states -/

/-- An accumulator of width `w` and the given seed that holds the bytes `d` (fewer than 17) and nothing folded. -/
def holding (w : Width) (seed : U64) (d : List Byte) : State :=
  { State.reset with
    cfgValid := true, seed := seed, width := w, P := d, T := d, L := BitVec.ofNat 64 d.length, stream := d }

/-- A block right after reset with a word presented. -/
def presenting (w : CmdWord) : State := { State.reset with cmdIn := [w] }

/-- The response a result holds, when it is a next state in RESP. -/
def responseOf : Result → Option (BitVec 8 × BitVec 128)
  | .next t => if t.phase = .resp then some (rspStatus t.rspHold, rspPayload t.rspHold) else none
  | .fault _ => none
  | .refused _ => none

/-- A view of the next state, when there is one. -/
def viewOf {α : Type} (f : State → α) : Result → Option α
  | .next t => some (f t)
  | .fault _ => none
  | .refused _ => none

/-! ### Well-formedness: an ill-formed term for each check -/

theorem test_wf_refuses_undefined_opcode : (RawCommand.mk 0x13 0).wf = false := by decide
theorem test_wf_refuses_reserved_operand : (RawCommand.mk 0x30 1).wf = false := by decide
theorem test_wf_accepts_free_operand : (RawCommand.mk 0x31 15).wf = true := by decide
theorem test_wf_refuses_short_payload : (AsmLine.command (.write 5) [0x68]).wf = false := by decide
theorem test_wf_refuses_payload_of_sum : (AsmLine.command .sum [0x68]).wf = false := by decide
theorem test_wf_accepts_hello : (AsmLine.command (.write 5) [0x68, 0x65, 0x6C, 0x6C, 0x6F]).wf = true := by decide

/-! ### Decoding: words written out from R72 and R73 -/

theorem test_decode_new : decode 0x100123456789ABCDEF = .ok (.new 0x0123456789ABCDEF) := by rfl
theorem test_decode_new64 : decode 0x11000000000000002A = .ok (.new64 42) := by rfl
theorem test_decode_new32 : decode 0x12FFFFFFFFFFFFFFFF = .ok (.new32 0xFFFFFFFFFFFFFFFF) := by rfl
theorem test_decode_write : decode 0x20000000000000012C = .ok (.write 300) := by rfl
theorem test_decode_reset : decode 0x210000000000000000 = .ok .reset := by rfl
theorem test_decode_sum : decode 0x300000000000000000 = .ok .sum := by rfl
theorem test_decode_sumInto : decode 0x310000000000000010 = .ok (.sumInto 16) := by rfl
theorem test_decode_sum64 : decode 0x320000000000000000 = .ok .sum64 := by rfl
theorem test_decode_sum32 : decode 0x330000000000000000 = .ok .sum32 := by rfl
theorem test_decode_size : decode 0x400000000000000000 = .ok .size := by rfl
theorem test_decode_blksz : decode 0x410000000000000000 = .ok .blksz := by rfl
/-- TV70 to TV74. -/
theorem test_decode_all_zero : decode 0 = .error (.undefinedOpcode 0) := by rfl
theorem test_decode_opcode_after_new32 : decode 0x130000000000000000 = .error (.undefinedOpcode 0x13) := by rfl
theorem test_decode_reset_operand_bit63 :
    decode 0x218000000000000000 = .error (.reservedOperand 0x21 0x8000000000000000) := by rfl
theorem test_decode_table_word : decodeTableWord 72 0x310000000000000010 = some (.sumInto 16) := by rfl
/-- R93, R90: the printed form of a word. -/
theorem test_word_text : wordText (encode (.new64 42)) =
    ['1', '1', '0', '0', '0', '0', '0', '0', '0', '0', '0', '0', '0', '0', '0', '0', '2', 'A'] := by decide

/-! ### The TOY backend is the spec's -/

/-- TV1. -/
theorem test_toy_mix : (toyMix zeroState (blockOf (ramp 256 1 0))).toList.take 8 =
    [0x01, 0x04, 0x07, 0x0A, 0x0D, 0x10, 0x13, 0x16] := by decide +kernel
/-- TV6. -/
theorem test_toy_fin : (toyFin 0x0123456789ABCDEF zeroState [] [] 0).toList =
    [0x9A, 0x78, 0x44, 0x22, 0x00, 0xDE, 0xBC, 0x9A, 0x99, 0x99, 0x99, 0x99, 0x99, 0x99, 0x99, 0x99] := by
  decide +kernel

/-! ### Construction -/

/-- R100, the worked example `NEW32 9`. -/
theorem test_new32 : viewOf (fun t => (t.cfgValid, t.seed, t.width, t.L)) (exec (.new32 9) State.reset) =
    some (true, 9, .w4, 0) := by decide
/-- TV14: a second NEW* discards the old accumulator. -/
theorem test_new64_again : viewOf (fun t => (t.seed, t.width, t.P, t.T, t.stream))
    (exec (.new64 6) (holding .w16 5 [9, 9, 9])) = some (6, .w8, [], [], []) := by decide
theorem test_new_width : viewOf (fun t => (t.width, t.rspHold, t.phase)) (exec (.new 7) State.reset) =
    some (.w16, 0, .resp) := by decide

/-! ### WRITE -/

/-- TV25, second WRITE: 250 bytes are there, 10 more fill the buffer, fold it, and leave four. -/
theorem test_write_step3_and_5 :
    viewOf (fun t => (t.P, t.T, t.S.toList.drop 240, t.L, t.dataIn))
      (writeCommand toy 10 { holding .w16 0 (ramp 250 1 0) with
        T := (ramp 250 1 0).drop 234, dataIn := ramp 10 1 0xF0 ++ [0x55] }) =
    some ([0xF6, 0xF7, 0xF8, 0xF9],
      [0xF4, 0xF5, 0xF6, 0xF7, 0xF8, 0xF9, 0xF0, 0xF1, 0xF2, 0xF3, 0xF4, 0xF5, 0xF6, 0xF7, 0xF8, 0xF9],
      [0xD1, 0xD4, 0xD7, 0xDA, 0xDD, 0xE0, 0xE3, 0xE6, 0xE9, 0xEC, 0xD1, 0xD4, 0xD7, 0xDA, 0xDD, 0xE0],
      260, [0x55]) := by decide +kernel
/-- TV26: 600 bytes in one WRITE, two folds, 88 bytes left. -/
theorem test_write_step4 :
    viewOf (fun t => (t.P.length, t.P.take 4, t.T.drop 13, t.S.toList.take 4, mixCalls t.calls))
      (writeCommand toy 600 { holding .w16 0 [] with dataIn := ramp 600 3 1 }) =
    some (88, [0x01, 0x04, 0x07, 0x0A], [0x00, 0x03, 0x06], [0x11, 0x23, 0x35, 0x47], 2) := by decide +kernel
/-- TV28: the overflow takes and discards the payload. -/
theorem test_write_overflow :
    viewOf (fun t => (t.rspHold, t.dataIn, t.L)) (exec (.write 4)
      { holding .w16 0 [] with L := 0xFFFFFFFFFFFFFFFC, dataIn := [1, 2, 3, 4, 5] }) =
    some (responseWord .lenOvf 0, [5], 0xFFFFFFFFFFFFFFFC) := by decide
/-- R120, C1: a zero-length WRITE keeps the buffer. -/
theorem test_write_zero : viewOf (fun t => (t.P, t.L)) (exec (.write 0) (holding .w16 0 [1, 2, 3, 4, 5])) =
    some ([1, 2, 3, 4, 5], 5) := by decide

/-! ### RESET, queries -/

/-- TV40. -/
theorem test_reset : viewOf (fun t => (t.seed, t.width, t.P, t.T, t.L)) (exec .reset (holding .w16 1 [1, 2, 3, 4, 5])) =
    some (1, .w16, [], [], 0) := by decide
/-- TV41. -/
theorem test_reset_not_init : responseOf (exec .reset State.reset) = some (0x02, 0) := by decide
/-- TV61. -/
theorem test_size : responseOf (exec .size (holding .w8 7 [])) = some (0x00, 8) := by decide
/-- TV63, TV64. -/
theorem test_blksz : responseOf (exec .blksz (holding .w4 7 [])) = some (0x00, 0x100) := by decide
theorem test_blksz_not_init : responseOf (exec .blksz State.reset) = some (0x02, 0) := by decide

/-! ### Digests (P1: "hello", seed 0x0123456789ABCDEF) -/

def hello : List Byte := [0x68, 0x65, 0x6C, 0x6C, 0x6F]

theorem test_sum_width16 : responseOf (sumCommand toy (holding .w16 0x0123456789ABCDEF hello)) =
    some (0x00, 0x81EEF8C5D7609300ACCEF06C02EE10B4) := by decide +kernel
theorem test_sum_width4 : responseOf (sumCommand toy (holding .w4 0x0123456789ABCDEF hello)) =
    some (0x00, 0x2EE10B4) := by decide +kernel
theorem test_sum64 : responseOf (sum64Command toy (holding .w8 0x0123456789ABCDEF hello)) =
    some (0x00, 0xACCEF06C02EE10B4) := by decide +kernel
theorem test_sum64_width4 : responseOf (exec .sum64 (holding .w4 9 [])) = some (0x04, 0) := by decide
theorem test_sum32 : responseOf (sum32Command toy (holding .w4 0x0123456789ABCDEF hello)) =
    some (0x00, 0x02EE10B4) := by decide +kernel
theorem test_sumInto : responseOf (sumIntoCommand toy 16 (holding .w16 0x0123456789ABCDEF hello)) =
    some (0x00, 0x81EEF8C5D7609300ACCEF06C02EE10B4) := by decide +kernel
/-- TV77: PRECOND before WIDTH. -/
theorem test_sumInto_precond : responseOf (exec (.sumInto 15) (holding .w4 9 [])) = some (0x03, 0) := by decide

/-! ### Steps and events -/

/-- TV73: ILLEGAL before NOT_INIT, from reset. -/
theorem test_step_illegal : responseOf (step (presenting 0x300000000000000001)) = some (0x01, 0) := by decide
/-- TV76: NOT_INIT before PRECOND. -/
theorem test_step_not_init : responseOf (step (presenting 0x31000000000000000F)) = some (0x02, 0) := by decide
theorem test_step_fetch_word : viewOf (fun t => (t.cfgValid, t.seed, t.cmdIn))
    (step (State.reset.withFetchWord 72 0x100000000000000005)) = some (true, 5, []) := by decide
/-- TV75: a WRITE before NEW drains its bytes as they come. -/
theorem test_step_drain : viewOf (fun t => (t.phase, t.rem, t.dataIn)) (step (presenting 0x200000000000000003)) =
    some (.drain, 3, []) := by decide
/-- The trace after TV29: byte BB fills the buffer and the `Mix` call is issued. -/
theorem test_receive_fills : viewOf (fun t => (t.phase, t.P.length, t.rem, t.L, mixCalls t.calls))
    (tick toy { holding .w16 0 (ramp 255 1 0) with
      T := [], L := 257, phase := .recv, rem := 2, dataIn := [0xBB, 0xCC] }) =
    some (.fold, 256, 1, 257, 1) := by decide +kernel
/-- Its next line: the `Mix` result empties the buffer. -/
theorem test_fold_result : viewOf (fun t => (t.phase, t.P, t.rem, t.S.toList.take 4))
    (tick toy { holding .w16 0 (ramp 256 1 0) with T := [], L := 257, phase := .fold, rem := 1 }) =
    some (.recv, [], 1, [0x01, 0x04, 0x07, 0x0A]) := by decide +kernel

/-! ### Witnesses: the premises of each statement can be met together -/

/-- An illegal word and a legal one at a command boundary. -/
theorem witness_StepRunsTheDecodedCommand :
    (presenting 0x210000000000000000).rst = false ∧ (presenting 0x210000000000000000).phase = .idle ∧
      (presenting 0x210000000000000000).cmdIn = 0x210000000000000000 :: [] ∧
      decode 0x210000000000000000 = .ok .reset := ⟨rfl, rfl, rfl, rfl⟩

theorem witness_IllegalWordIsAnswered :
    ((presenting 0).rst = false ∧ (presenting 0).phase = .idle ∧ (presenting 0).cmdIn = 0 :: [] ∧
      decode 0 = .error (.undefinedOpcode 0)) ∧
    CmdWord.opcodeField 0x420000000000000000 ∉ [0x10, 0x11, 0x12, 0x20, 0x21, 0x30, 0x31, 0x32, 0x33, 0x40, 0x41] ∧
    (CmdWord.opcodeField 0x418000000000000000 ∈ [0x21, 0x30, 0x32, 0x33, 0x40, 0x41] ∧
      CmdWord.operandField 0x418000000000000000 ≠ 0) := ⟨⟨rfl, rfl, rfl, rfl⟩, by decide, by decide⟩

theorem witness_DecodeOfEncode : (Instr.write 0xFFFFFFFFFFFFFFFF).wf = true := by decide

theorem witness_EncodeOfDecode : decode 0x12FFFFFFFFFFFFFFFF = .ok (.new32 0xFFFFFFFFFFFFFFFF) := rfl

/-- Both clauses: accepted, and not accepted. -/
theorem witness_ResponseTransfer :
    (let s := { State.reset with phase := .resp, rspHold := 5 }
     s.rst = false ∧ s.phase = .resp ∧ s.rspReady = true) ∧
    (let s := { State.reset with phase := .resp, rspReady := false }
     s.rst = false ∧ s.phase = .resp ∧ s.rspReady = false) := by decide

/-- A word that is ready: a WRITE with exactly its payload there. -/
theorem ready_write : ({ holding .w16 0 [] with
    cmdIn := [0x200000000000000002], dataIn := [7, 8] } : State).readyFor 0x200000000000000002 [] := by
  refine ⟨rfl, rfl, rfl, fun len h => ?_⟩
  have e : decode 0x200000000000000002 = .ok (.write 2) := rfl
  rw [e] at h
  cases h
  decide

theorem witness_OneResponsePerCommand : ∃ (s : State) (w : CmdWord) (ws : List CmdWord),
    s.readyFor w ws ∧ s.rspReady = true := ⟨_, _, _, ready_write, rfl⟩

/-- A word that is no WRITE is ready at every command boundary. -/
theorem ready_presenting {w : CmdWord} (h : ∀ len, decode w ≠ .ok (.write len)) : (presenting w).readyFor w [] :=
  ⟨rfl, rfl, rfl, fun len e => absurd e (h len)⟩

/-- A WRITE with its payload, an illegal word, and a SUM that raises NOT_INIT. -/
theorem witness_EveryStepIsItsTransfers :
    (∃ (s : State) (w : CmdWord) (ws : List CmdWord), s.readyFor w ws ∧ s.buffersBounded ∧ s.rem = 0) ∧
    ((presenting 0).readyFor 0 [] ∧ (presenting 0).buffersBounded ∧ (presenting 0).rem = 0) ∧
    ((presenting 0x300000000000000000).readyFor 0x300000000000000000 [] ∧
      (presenting 0x300000000000000000).buffersBounded ∧ (presenting 0x300000000000000000).rem = 0) :=
  ⟨⟨_, _, _, ready_write, ⟨by decide, by decide⟩, rfl⟩,
    ⟨ready_presenting (fun _ h => by cases h), ⟨by decide, by decide⟩, rfl⟩,
    ⟨ready_presenting (fun _ h => by cases h), ⟨by decide, by decide⟩, rfl⟩⟩

/-- The clauses of RESET, SIZE and BLKSZ: constructed, not constructed, and a word with a non-zero operand. -/
theorem witness_ResetClearsTheDatapath : (holding .w4 1 [9]).cfgValid = true ∧ State.reset.cfgValid = false ∧
    CmdWord.opcodeField 0x210000000000000001 = 0x21 ∧ CmdWord.operandField 0x210000000000000001 ≠ 0 := by decide

theorem witness_SizeAnswersTheWidth : (holding .w8 1 [9]).cfgValid = true ∧ State.reset.cfgValid = false ∧
    CmdWord.opcodeField 0x400000000000000001 = 0x40 ∧ CmdWord.operandField 0x400000000000000001 ≠ 0 := by decide

theorem witness_BlockSizeAnswers256 : (holding .w16 1 [9]).cfgValid = true ∧ State.reset.cfgValid = false ∧
    CmdWord.opcodeField 0x410000000000000001 = 0x41 ∧ CmdWord.operandField 0x410000000000000001 ≠ 0 := by decide

/-- The largest legal `L` (TV29) and a buffer one byte short of full. -/
theorem witness_WriteClosedForm :
    let s := { holding .w16 0 (ramp 255 1 0) with T := [], L := 0xFFFFFFFFFFFFFFFC, dataIn := [1, 2, 3] }
    s.cfgValid = true ∧ s.L.toNat + (3 : U64).toNat < 2 ^ 64 ∧ (3 : U64).toNat ≤ s.dataIn.length ∧
      s.P.length < 256 ∧ s.T.length ≤ 16 := by decide +kernel

theorem witness_ZeroLengthWriteChangesNothing :
    ((holding .w16 0 hello).cfgValid = true ∧ (holding .w16 0 hello).buffersBounded ∧
      (holding .w16 0 hello).rem = 0) ∧
    (State.reset.cfgValid = false ∧ State.reset.rem = 0) :=
  ⟨⟨rfl, ⟨by decide, by decide⟩, rfl⟩, by decide⟩

/-- The three clauses, the overflow at exactly 2^64. -/
theorem witness_WriteFaultsDrainThePayload :
    (let s := { State.reset with dataIn := [1, 2, 3] }
     s.cfgValid = false ∧ (3 : U64).toNat ≤ s.dataIn.length) ∧
    (let s := { holding .w16 0 [] with L := 0xFFFFFFFFFFFFFFFC, dataIn := [1, 2, 3, 4] }
     s.cfgValid = true ∧ 2 ^ 64 ≤ s.L.toNat + (4 : U64).toNat ∧ (4 : U64).toNat ≤ s.dataIn.length) ∧
    CmdWord.opcodeField 0x20FFFFFFFFFFFFFFFF = 0x20 := by decide

/-- The five clauses, each one byte short. -/
theorem witness_WriteWaitsForItsPayload :
    (let s := { holding .w16 0 [] with L := 0xFFFFFFFFFFFFFFFC, dataIn := [1, 2] }
     s.cfgValid = true ∧ s.L.toNat + (3 : U64).toNat < 2 ^ 64 ∧ s.dataIn.length < (3 : U64).toNat) ∧
    (let s := { holding .w16 0 [] with L := 0xFFFFFFFFFFFFFFFC, dataIn := [1, 2, 3] }
     s.cfgValid = true ∧ 2 ^ 64 ≤ s.L.toNat + (4 : U64).toNat ∧ s.dataIn.length < (4 : U64).toNat) ∧
    (State.reset.cfgValid = false ∧ State.reset.dataIn.length < (1 : U64).toNat) ∧
    (let s := { State.reset with phase := .drain, rem := 1 }
     s.rst = false ∧ (s.phase = .recv ∨ s.phase = .drain) ∧ s.dataIn = []) ∧
    ({ State.reset with rst := true } : State).rst = true := by decide

/-- Three chunks, one of them empty, on a buffer one byte short of full, up to the largest legal length; and one byte
more, which crosses it. -/
theorem witness_ChunkInvariance :
    let s := { holding .w16 0 (ramp 255 1 0) with T := [], L := 0xFFFFFFFFFFFFFFFC, dataIn := [1, 2, 3, 9] }
    let cs : List (List Byte) := [[1], [], [2, 3]]
    s.cfgValid = true ∧ (s.P.length < 256 ∧ s.T.length ≤ 16) ∧ s.dataIn = cs.flatten ++ [9] ∧
      s.L.toNat + cs.flatten.length < 2 ^ 64 ∧
      (s.dataIn = cs.flatten ++ [9] ++ [] ∧ 2 ^ 64 ≤ s.L.toNat + (cs.flatten ++ [9]).length ∧
        (cs.flatten ++ [9]).length < 2 ^ 64) := by decide +kernel

/-- TV27's second WRITE: its second byte fills the buffer. -/
def tv27 : State :=
  { holding .w16 0 (ramp 254 1 0) with T := [], dataIn := [0xAA, 0xBB, 0xCC], cmdIn := [0x200000000000000003] }

theorem witness_PerByteMachineRefinesAtomicWrite :
    tv27.rst = false ∧ tv27.phase = .idle ∧ tv27.cmdIn = 0x200000000000000003 :: [] ∧
      decode 0x200000000000000003 = .ok (.write 3) ∧ tv27.cfgValid = true ∧
      tv27.L.toNat + (3 : U64).toNat < 2 ^ 64 ∧ (3 : U64).toNat ≤ tv27.dataIn.length ∧ tv27.buffersBounded :=
  ⟨rfl, rfl, rfl, rfl, rfl, by decide +kernel, by decide, ⟨by decide +kernel, by decide⟩⟩

theorem witness_ResetEquivalence :
    isConstruct (.new32 7) = true ∧ hello.length < 2 ^ 64 ∧ ([1] : List Byte).length < 2 ^ 64 := by decide

theorem witness_SumReturnsTheDigest : (holding .w4 0 hello).cfgValid = true := by decide

theorem witness_SumIntoReturnsTheFullDigest :
    (holding .w16 0 hello).cfgValid = true ∧ (holding .w16 0 hello).width = .w16 := by decide

theorem witness_Sum64ReturnsEightBytes :
    (holding .w8 0 hello).cfgValid = true ∧ (holding .w8 0 hello).width ≠ .w4 := by decide

theorem witness_Sum32ReturnsFourBytes : (holding .w4 0 hello).cfgValid = true := by decide

theorem witness_DigestIntegerAndByteFormsCoincide : 16 ≤ 16 ∧ 0 ≤ 16 := by decide

/-- The four clauses. -/
theorem witness_DigestFaultsInOrder :
    (isDigestCommand .sum32 = true ∧ State.reset.cfgValid = false) ∧
    ((holding .w4 0 []).cfgValid = true ∧ (17 : U64) ≠ 16) ∧
    ((holding .w8 0 []).cfgValid = true ∧ (holding .w8 0 []).width ≠ .w16) ∧
    ((holding .w4 0 []).cfgValid = true ∧ (holding .w4 0 []).width = .w4) := by decide

theorem witness_IdempotentFinalize :
    isDigestCommand .sum = true ∧ (holding .w16 0 hello).buffersBounded ∧
      (∀ i ∈ [Instr.sum64, .size, .write 0], isDigestCommand i = true ∨ i = .size ∨ i = .blksz ∨ i = .write 0) :=
  ⟨rfl, ⟨by decide, by decide⟩, by decide⟩

theorem witness_WritingContinuesAfterADigest :
    let s := { holding .w4 0 hello with dataIn := [1, 2, 3] }
    s.cfgValid = true ∧ (s.P.length < 256 ∧ s.T.length ≤ 16) ∧ s.dataIn = [1] ++ [2] ++ [3] ∧
      s.L.toNat + ([1] ++ [2] : List Byte).length < 2 ^ 64 := by decide

theorem witness_WidthPrefixLaw :
    let s := holding .w16 3 hello
    let s' := holding .w4 3 hello
    s.cfgValid = true ∧ s'.cfgValid = true ∧ s.width = .w16 ∧ s'.seed = s.seed ∧ s'.S = s.S ∧ s'.P = s.P ∧
      s'.T = s.T ∧ s'.L = s.L := ⟨rfl, rfl, rfl, rfl, rfl, rfl, rfl, rfl⟩

theorem witness_DigestIsAFunctionOfTheStream :
    ({ State.reset with dataIn := [1, 2, 9] } : State).dataIn = ([[1], [2]] : List (List Byte)).flatten ++ [9] ∧
      ([[1], [2]] : List (List Byte)).flatten.length < 2 ^ 64 ∧
      (Instr.new32 5, 4) ∈ [(Instr.new 5, 16), (Instr.new64 5, 8), (Instr.new32 5, 4)] := by decide

theorem witness_OneShotPseudoInstructions :
    ({ State.reset with dataIn := [1, 2, 9] } : State).dataIn = [1, 2] ++ [9] ∧
      ([1, 2] : List Byte).length < 2 ^ 64 := by decide

/-- A backend that is sensitive to the seed: its digest is the seed's bytes. -/
def seedBackend : Backend := ⟨fun s _ => s, fun seed _ _ _ _ => bytes16Of (seed.setWidth 128)⟩

theorem witness_BlockPassesSeedSensitivityOn :
    SeedSensitive seedBackend ∧ hello ≠ [] ∧ hello.length < 2 ^ 64 ∧
      ({ State.reset with dataIn := hello } : State).dataIn = hello ++ [] :=
  ⟨fun _ _ _ => ⟨0, 1, by simp only [digestOf, seedBackend]; decide⟩, by decide, by decide, by decide⟩

theorem witness_NotInitBeforeConstruction :
    (isConstruct (.write 2) = false ∧ State.reset.cfgValid = false ∧
      payloadThere (.write 2) { State.reset with dataIn := [1, 2] } ∧ State.reset.rem = 0) ∧
    ∃ t, (holding .w4 0 []).rst = false ∧ (holding .w4 0 []).cfgValid = true ∧
      step (holding .w4 0 []) = .next t ∧ payloadThere .sum64 (holding .w4 0 []) ∧
      ∃ u, exec .sum64 (holding .w4 0 []) = .next u :=
  ⟨⟨rfl, rfl, by unfold payloadThere; decide, rfl⟩, _, rfl, rfl, rfl, by unfold payloadThere; decide, _, rfl⟩

theorem witness_FaultsAreTakenAndChangeNothing :
    faultOf .sum64 (holding .w4 0 []) = some .width ∧ payloadThere .sum64 (holding .w4 0 []) ∧
      (holding .w4 0 []).rem = 0 := ⟨by decide, by unfold payloadThere; decide, rfl⟩

theorem witness_UnfaultedCommandsSucceed :
    faultOf (.write 2) { holding .w4 0 [] with dataIn := [1, 2] } = none ∧
      payloadThere (.write 2) { holding .w4 0 [] with dataIn := [1, 2] } :=
  ⟨by decide, by unfold payloadThere; decide⟩

theorem witness_OtherCommandsKeepTheArchitecturalState :
    isConstruct (.write 0) = false ∧ Instr.write 0 ≠ .reset ∧ (holding .w4 0 hello).buffersBounded ∧
      (∀ len, Instr.write 0 = .write len → len = 0 ∨ (faultOf (.write 0) (holding .w4 0 hello)).isSome) ∧
      ∃ t, exec (.write 0) (holding .w4 0 hello) = .next t :=
  ⟨rfl, by decide, ⟨by decide, by decide⟩, fun _ h => .inl (by cases h; rfl), _, rfl⟩

theorem witness_SurplusBytesWait : payloadThere (.write 2) { State.reset with dataIn := [1, 2, 3] } := by
  unfold payloadThere; decide

theorem witness_OnlyConstructionWritesTheConfiguration :
    (∃ t, step (presenting 0x210000000000000000) = .next t) ∧ (presenting 0x210000000000000000).rst = false ∧
      (∀ w ws i, (presenting 0x210000000000000000).phase = .idle →
        (presenting 0x210000000000000000).cmdIn = w :: ws → decode w = .ok i → isConstruct i = false) := by
  refine ⟨⟨_, rfl⟩, rfl, fun w ws i _ h2 h3 => ?_⟩
  cases h2
  cases h3
  rfl

theorem witness_TotalLengthNeverDecreases :
    (∃ t, step (presenting 0x300000000000000000) = .next t) ∧ (presenting 0x300000000000000000).rst = false ∧
      (∀ w ws i, (presenting 0x300000000000000000).phase = .idle →
        (presenting 0x300000000000000000).cmdIn = w :: ws → decode w = .ok i →
          isConstruct i = false ∧ i ≠ .reset) := by
  refine ⟨⟨_, rfl⟩, rfl, fun w ws i _ h2 h3 => ?_⟩
  cases h2
  cases h3
  exact ⟨rfl, by decide⟩

/-- Both clauses. -/
theorem witness_WorkCounts :
    (isConstruct (.new64 1) = true ∧
      ({ State.reset with dataIn := [1, 2, 9] } : State).dataIn = ([[1], [2]] : List (List Byte)).flatten ++ [9] ∧
      ([[1], [2]] : List (List Byte)).flatten.length < 2 ^ 64) ∧
    (isDigestCommand .sum64 = true ∧ faultOf .sum64 (holding .w8 1 []) = none) := by decide

/-- A state with the invariant at a command boundary, with bytes in the buffer, under every backend. -/
theorem inv_holding_hello (bk : Backend) : Inv bk (holding .w8 3 hello) where
  bufferFull := by decide
  bufferNotFull := by decide
  windowBound := by decide
  remZero := by decide
  remNotZero := by decide
  constructed := by decide
  digestHeld := fun h => by cases h
  datapath := fun _ => ⟨by decide, by decide, rfl, by decide⟩

/-- A state with the invariant in RECV, one byte of the payload still owed. -/
theorem inv_receiving (bk : Backend) :
    Inv bk { holding .w8 3 hello with L := 6, phase := .recv, rem := 1, dataIn := [0x21] } where
  bufferFull := by decide
  bufferNotFull := by decide
  windowBound := by decide
  remZero := by decide
  remNotZero := by decide
  constructed := by decide
  digestHeld := fun h => by cases h
  datapath := fun _ => ⟨by decide, by decide, rfl, by decide⟩

theorem witness_StepKeepsTheInvariant :
    ∃ s t, Inv Config.backend s ∧ step s = .next t ∧ t ≠ s :=
  ⟨_, _, inv_receiving _, rfl, fun h => absurd (congrArg State.dataIn h) (by decide)⟩

theorem witness_EventsKeepTheInvariant (bk : Backend) :
    ∃ s t, Inv bk s ∧ tick bk s = .next t ∧ t ≠ s :=
  ⟨_, _, inv_receiving bk, rfl, fun h => absurd (congrArg State.dataIn h) (by decide)⟩

theorem witness_InvariantStatesNeverStop : ∃ s, Inv Config.backend s := ⟨_, inv_receiving _⟩

theorem witness_BoundaryDatapathIsTheStreams (bk : Backend) :
    ∃ s, Inv bk s ∧ s.phase = .idle ∧ s.cfgValid = true ∧ s.P ≠ [] :=
  ⟨_, inv_holding_hello bk, rfl, rfl, by decide⟩

theorem witness_HardwareReset : ({ State.reset with rst := true } : State).rst = true := by decide

/-- Two states before construction that differ in every unspecified architectural register, with a command presented. -/
theorem witness_UnspecifiedRegistersAreUnobservable :
    ∃ s s' t, SameButUnspecified s s' ∧ s.arch ≠ s'.arch ∧
      (s.phase = .recv ∨ s.phase = .fold ∨ s.phase = .final → s.cfgValid = true) ∧ step s = .next t := by
  refine ⟨presenting 0x300000000000000000,
    { holding .w4 7 hello with cfgValid := false, cmdIn := [0x300000000000000000], opHold := 9, rspHold := 9 }, _,
    ?_, by decide, by decide, rfl⟩
  exact ⟨rfl, rfl, rfl, rfl, rfl, rfl, rfl, rfl, rfl, by decide, by decide, by decide, by decide⟩

/-- The run `NEW 5`: send the word, execute it, transfer the response. -/
def runOfNew : List RunEvent := [.host (.sendCommand 0x100000000000000005), .step, .step]

/-- A run that leaves a WRITE of 3 bytes waiting and raises `rst`. -/
def runIntoHreset : List RunEvent :=
  [.host (.sendCommand 0x200000000000000003), .step, .host (.setRst true)]

/-- The three clauses, at both levels: a run that ends; the same without HRESET; and an HRESET in a command. -/
theorem witness_RunEndsAtRest (bk : Backend) :
    (∃ t, run runOfNew State.reset = .next t ∧ runEnded State.reset runOfNew t = true ∧
      (State.reset.phase = .idle ∨ State.reset.phase = .final ∨ State.reset.phase = .resp → State.reset.rem = 0)) ∧
    (∃ t, runFrom (tick bk) runOfNew State.reset = .next t ∧ runEnded State.reset runOfNew t = true ∧
      State.reset.rst = false ∧ RunEvent.host (.setRst true) ∉ runOfNew) ∧
    (∃ m t, run runIntoHreset State.reset = .next m ∧ m.rst = true ∧ m.phase ≠ .idle ∧
      run (runIntoHreset ++ .step :: runOfNew) State.reset = .next t) :=
  ⟨⟨_, rfl, rfl, by decide⟩, ⟨_, rfl, rfl, rfl, by decide⟩, ⟨_, _, rfl, rfl, by decide, rfl⟩⟩

/-- After an HRESET that abandons a command the block can be idle, and the run has still not ended (R246, R231). -/
theorem test_abandoned_command_has_not_ended :
    viewOf (fun t => (t.phase, t.rem, t.cmdIn, t.rspOut.length,
        runEnded State.reset (runIntoHreset ++ [.step, .host (.setRst false)]) t))
      (run (runIntoHreset ++ [.step, .host (.setRst false)]) State.reset) = some (.idle, 0, [], 0, false) := by decide

theorem witness_FinPortsAreMasked : (holding .w4 7 hello).buffersBounded := ⟨by decide, by decide⟩

/-- Both clauses: a full buffer, and a bounded one. -/
theorem witness_PortAnswersAreTheBackendsValues :
    (holding .w4 7 (ramp 256 1 0)).P.length = 256 ∧ (holding .w4 7 hello).buffersBounded :=
  ⟨by decide +kernel, ⟨by decide, by decide⟩⟩

theorem witness_EventIsTheDrivenEdge :
    ({ holding .w4 7 hello with phase := .final } : State).phase = .final →
      ({ holding .w4 7 hello with phase := .final } : State).buffersBounded :=
  fun _ => ⟨by decide, by decide⟩

end Sys2Proof.Tests
end

section
/-! PROOF. The events of the sequencer that run one accepted word (R124, R125), against the one step of the operation
level (R3, R126): a payload received, a payload discarded, a digest answered, and, from these, every ready word. -/

namespace Sys2Proof.Machine

/-! ### One event, by phase -/

@[simp] theorem ticks_zero (bk : Backend) (s : State) : ticks bk 0 s = .next s := rfl

/-- A first event, and then the others. -/
theorem ticks_succ {bk : Backend} {s t : State} (h : tick bk s = .next t) (k : Nat) :
    ticks bk (k + 1) s = ticks bk k t := by
  simp only [ticks, h]

/-- The event of each phase, when what the phase awaits is there (R125). -/
theorem tick_idle (bk : Backend) {s : State} {w : CmdWord} {ws : List CmdWord} (hr : s.rst = false)
    (hp : s.phase = .idle) (hc : s.cmdIn = w :: ws) : tick bk s = .next (acceptWord w { s with cmdIn := ws }) := by
  simp [tick, hr, hp, hc]

theorem tick_recv (bk : Backend) {s : State} {b : Byte} {bs : List Byte} (hr : s.rst = false)
    (hp : s.phase = .recv) (hd : s.dataIn = b :: bs) : tick bk s = .next (receiveByte b { s with dataIn := bs }) := by
  simp [tick, hr, hp, hd]

theorem tick_fold (bk : Backend) {s : State} (hr : s.rst = false) (hp : s.phase = .fold) (hP : s.P.length = 256) :
    tick bk s = .next (takeMixResult (bk.mix s.S (blockOf s.P)) s) := by
  simp [tick, hr, hp, hP]

theorem tick_drain (bk : Backend) {s : State} {b : Byte} {bs : List Byte} (hr : s.rst = false)
    (hp : s.phase = .drain) (hd : s.dataIn = b :: bs) : tick bk s = .next (drainByte { s with dataIn := bs }) := by
  simp [tick, hr, hp, hd]

theorem tick_final (bk : Backend) {s : State} {pl : BitVec 128} (hr : s.rst = false) (hp : s.phase = .final)
    (hs : shapeDigest s.opHold s.width (finalize bk s) = some pl) : tick bk s = .next (respond .ok pl s) := by
  simp [tick, hr, hp, takeFinResult, hs]

/-! ### A payload discarded -/

/-- A count of payload bytes that is not 0, and the count after one of them. -/
theorem ne_zero_and_toNat_sub_one {n : Nat} {x : U64} (h : x.toNat = n + 1) : x ≠ 0 ∧ (x - 1).toNat = n := by
  bv_omega

/-- DRAIN to RESP (R127): the bytes still announced are taken and discarded, one event each. -/
theorem ticks_drain (bk : Backend) (n : Nat) {s : State} (hn : s.rem.toNat = n) (hr : s.rst = false)
    (hp : s.phase = if s.rem = 0 then .resp else .drain) (hd : n ≤ s.dataIn.length) :
    ticks bk n s = .next { s with dataIn := s.dataIn.drop n, rem := 0, phase := .resp } := by
  induction n generalizing s with
  | zero =>
    have h0 : s.rem = 0 := BitVec.eq_of_toNat_eq hn
    rw [if_pos h0] at hp
    rw [ticks_zero, List.drop_zero, ← h0, ← hp]
  | succ n ih =>
    obtain ⟨hne, hsub⟩ := ne_zero_and_toNat_sub_one hn
    rw [if_neg hne] at hp
    obtain ⟨b, bs, hb⟩ := List.exists_cons_of_length_pos (Nat.lt_of_lt_of_le n.succ_pos hd)
    have hlen : n ≤ bs.length := by simpa [hb] using hd
    rw [ticks_succ (tick_drain bk hr hp hb), ih (s := drainByte { s with dataIn := bs }) hsub hr rfl hlen, hb]
    rfl

/-! ### A payload received -/

/-- `ABSORB` slides the window by one byte (R124), as step 2 of a WRITE does (R114). -/
theorem slide_one_byte {T : List Byte} (h : T.length ≤ 16) (b : Byte) :
    (if T.length < 16 then T ++ [b] else T.drop 1 ++ [b]) = lastBytes 16 (T ++ [b]) := by
  split
  · exact (lastBytes_of_length_le (by simp; omega)).symm
  · have h16 : T.length = 16 := by omega
    rw [lastBytes, List.length_append, h16, List.drop_append_of_le_length (by simp [h16])]
    rfl

/-- A byte that does not fill the buffer (R124, R125). -/
theorem receiveByte_of_room (b : Byte) {s : State} (hT : s.T.length ≤ 16) (hP : s.P.length + 1 ≠ 256) :
    receiveByte b s = { s with
      P := s.P ++ [b]
      T := lastBytes 16 (s.T ++ [b])
      rem := s.rem - 1
      stream := s.stream ++ [b]
      phase := if s.rem - 1 = 0 then .resp else s.phase } := by
  rw [receiveByte_eq, slide_one_byte hT, if_neg hP, if_neg hP]

/-- A byte that fills the buffer (R125, R192). -/
theorem receiveByte_of_full (b : Byte) {s : State} (hT : s.T.length ≤ 16) (hP : s.P.length + 1 = 256) :
    receiveByte b s = { s with
      P := s.P ++ [b]
      T := lastBytes 16 (s.T ++ [b])
      rem := s.rem - 1
      stream := s.stream ++ [b]
      phase := .fold
      calls := s.calls ++ [.mix s.S (blockOf (s.P ++ [b]))] } := by
  rw [receiveByte_eq, slide_one_byte hT, if_pos hP, if_pos hP]

/-- The block is to receive the bytes `B`, which stand on the data channel before `rest`; with `B` empty it is in RESP.
What RECV knows at each byte (R34, R124). -/
structure Receiving (B rest : List Byte) (s : State) : Prop where
  running : s.rst = false
  phase   : s.phase = if s.rem = 0 then .resp else .recv
  count   : s.rem.toNat = B.length
  data    : s.dataIn = B ++ rest
  bounded : s.buffersBounded

/-- The state in RESP once the payload `B` has been received and `rest` stands on the data channel: the closed form of
R118, for the per-byte machine. -/
def payloadReceived (bk : Backend) (B rest : List Byte) (s : State) : State :=
  { s with
    S := foldFrom bk ((s.P ++ B).length / 256) s.S (s.P ++ B)
    P := (s.P ++ B).drop (256 * ((s.P ++ B).length / 256))
    T := lastBytes 16 (s.T ++ B)
    stream := s.stream ++ B
    phase := .resp
    rem := 0
    dataIn := rest
    calls := s.calls ++ foldCalls bk ((s.P ++ B).length / 256) s.S (s.P ++ B) }

/-- With nothing left to receive the payload has been received. -/
theorem Receiving.received_nil (bk : Backend) {rest : List Byte} {s : State} (h : Receiving [] rest s) :
    payloadReceived bk [] rest s = s := by
  obtain ⟨_, hp, hn, hd, hP, hT⟩ := h
  have h0 : s.rem = 0 := BitVec.eq_of_toNat_eq hn
  rw [if_pos h0] at hp
  have hq : s.P.length / 256 = 0 := Nat.div_eq_of_lt hP
  simp [payloadReceived, hq, foldFrom, foldCalls, lastBytes_of_length_le hT, ← h0, ← hp,
    show rest = s.dataIn from hd.symm]

/-- A byte that leaves room in the buffer: one event, after which the other bytes are to be received, with the same
end. -/
theorem Receiving.byte_of_room (bk : Backend) {b : Byte} {B rest : List Byte} {s : State}
    (h : Receiving (b :: B) rest s) (hroom : s.P.length + 1 ≠ 256) :
    ∃ t, tick bk s = .next t ∧ Receiving B rest t ∧ t.P = s.P ++ [b] ∧
      payloadReceived bk B rest t = payloadReceived bk (b :: B) rest s := by
  obtain ⟨hr, hp, hn, hd, hP, hT⟩ := h
  obtain ⟨hne, hsub⟩ := ne_zero_and_toNat_sub_one hn
  rw [if_neg hne] at hp
  refine ⟨_, tick_recv bk (bs := B ++ rest) hr hp hd, ?_⟩
  rw [receiveByte_of_room b (s := { s with dataIn := B ++ rest }) hT hroom]
  refine ⟨⟨hr, by simp [hp], hsub, rfl, ?_, ?_⟩, rfl, ?_⟩
  · simp only [List.length_append, List.length_singleton]
    omega
  · simp
  · simp [payloadReceived, lastBytes_lastBytes_append]

/-- The whole blocks of a full buffer and what follows it: the buffer's, then those of the rest. -/
theorem length_div_of_full {X : List Byte} (hX : X.length = 256) (B : List Byte) :
    (X ++ B).length / 256 = B.length / 256 + 1 := by
  rw [List.length_append, hX, Nat.add_div_left _ (by decide)]

/-- A byte that fills the buffer: two events, the byte and the `Mix` result, which fold the first block of `P ++ B`. -/
theorem Receiving.byte_of_full (bk : Backend) {b : Byte} {B rest : List Byte} {s : State}
    (h : Receiving (b :: B) rest s) (hfull : s.P.length + 1 = 256) :
    ∃ t u, tick bk s = .next t ∧ tick bk t = .next u ∧ Receiving B rest u ∧ u.P = [] ∧
      payloadReceived bk B rest u = payloadReceived bk (b :: B) rest s := by
  obtain ⟨hr, hp, hn, hd, hP, hT⟩ := h
  obtain ⟨hne, hsub⟩ := ne_zero_and_toNat_sub_one hn
  rw [if_neg hne] at hp
  have hX : (s.P ++ [b]).length = 256 := by simpa using hfull
  have hbyte := tick_recv bk (bs := B ++ rest) hr hp hd
  rw [receiveByte_of_full b (s := { s with dataIn := B ++ rest }) hT hfull] at hbyte
  refine ⟨_, _, hbyte, tick_fold bk hr rfl hX, ⟨hr, rfl, hsub, rfl, by simp, by simp⟩, rfl, ?_⟩
  have htake : ((s.P ++ [b]) ++ B).take 256 = s.P ++ [b] := by rw [← hX, List.take_left]
  have hdrop : ((s.P ++ [b]) ++ B).drop 256 = B := by rw [← hX, List.drop_left]
  have hrest : ((s.P ++ [b]) ++ B).drop (256 * (B.length / 256 + 1)) = B.drop (256 * (B.length / 256)) := by
    rw [Nat.mul_succ, Nat.add_comm, ← List.drop_drop, hdrop]
  unfold payloadReceived
  rw [show s.P ++ b :: B = (s.P ++ [b]) ++ B by simp, length_div_of_full hX, hrest, foldFrom, foldCalls, htake, hdrop]
  simp [takeMixResult, lastBytes_lastBytes_append]

/-- RECV to RESP (R126): one event for each byte, and one for each block that fills. -/
theorem ticks_recv (bk : Backend) {B rest : List Byte} {s : State} (h : Receiving B rest s) :
    ticks bk (B.length + (s.P.length + B.length) / 256) s = .next (payloadReceived bk B rest s) := by
  induction B generalizing s with
  | nil =>
    have hq : s.P.length / 256 = 0 := Nat.div_eq_of_lt h.bounded.1
    rw [h.received_nil bk]
    simp [hq]
  | cons b B ih =>
    by_cases hfull : s.P.length + 1 = 256
    · obtain ⟨t, u, hst, htu, hu, hPu, heq⟩ := h.byte_of_full bk hfull
      have hk : (b :: B).length + (s.P.length + (b :: B).length) / 256 =
          B.length + (u.P.length + B.length) / 256 + 1 + 1 := by
        simp only [hPu, List.length_cons, List.length_nil]
        omega
      rw [hk, ticks_succ hst, ticks_succ htu, ih hu, heq]
    · obtain ⟨t, hst, ht, hPt, heq⟩ := h.byte_of_room bk hfull
      have hk : (b :: B).length + (s.P.length + (b :: B).length) / 256 =
          B.length + (t.P.length + B.length) / 256 + 1 := by
        simp only [hPt, List.length_append, List.length_cons, List.length_nil]
        omega
      rw [hk, ticks_succ hst, ih ht, heq]

/-! ### From the acceptance of a command to its response -/

/-- The two acceptances of a WRITE, the empty one included (R120, R125, R127). -/
theorem acceptFaulted_write (e : Status) (len : U64) (s : State) :
    acceptFaulted e (.write len) s =
      { s with rspHold := responseWord e 0, rem := len, phase := if len = 0 then .resp else .drain } := by
  simp only [acceptFaulted]
  split <;> rfl

theorem acceptLegal_write (len : U64) (s : State) :
    acceptLegal (.write len) s = { s with
      L := s.L + len, rspHold := responseWord .ok 0, rem := len, phase := if len = 0 then .resp else .recv } := by
  simp only [acceptLegal]
  split <;> rfl

/-- A WRITE that raises an exception: its payload, which is there, is drained byte by byte (R125, R127). -/
theorem ticks_acceptFaulted_write (bk : Backend) (e : Status) {len : U64} {s : State} (hr : s.rst = false)
    (hd : len.toNat ≤ s.dataIn.length) :
    ticks bk len.toNat (acceptFaulted e (.write len) s) = .next (faultWrite e len s) := by
  have hready : payloadReady len s = true := by simpa [payloadReady] using hd
  rw [acceptFaulted_write, ticks_drain bk len.toNat (s := { s with
    rspHold := responseWord e 0, rem := len, phase := if len = 0 then .resp else .drain }) rfl hr rfl hd,
    faultWrite, if_pos hready]
  rfl

/-- A WRITE that does not fault: its payload, which is there, is received byte by byte, and ends in the state of the
five steps on the whole payload (R126). -/
theorem ticks_acceptLegal_write (bk : Backend) {len : U64} {s : State} (hr : s.rst = false)
    (hb : s.buffersBounded) (hd : len.toNat ≤ s.dataIn.length) :
    ticks bk (len.toNat + (s.P.length + len.toNat) / 256) (acceptLegal (.write len) s) =
      .next (respond .ok 0 (writePayload bk len (payloadBytes len s) (takePayload len s))) := by
  have hlen : (payloadBytes len s).length = len.toNat := by simpa [payloadBytes] using hd
  have hrecv : Receiving (payloadBytes len s) (s.dataIn.drop len.toNat) (acceptLegal (.write len) s) := by
    rw [acceptLegal_write]
    exact ⟨hr, rfl, hlen.symm, (List.take_append_drop _ _).symm, hb⟩
  have hP : (acceptLegal (.write len) s).P = s.P := by rw [acceptLegal_write]
  have h := ticks_recv bk hrecv
  rw [hlen, hP] at h
  rw [h, writePayload_eq bk len _ (takePayload len s) hb.1, acceptLegal_write]
  rfl

/-- A digest command that does not fault: the `Fin` result, in one event, shaped as the opcode says (R163). -/
theorem ticks_acceptDigest (bk : Backend) {op : BitVec 8} {shape : Bytes16 → BitVec 128} {s : State}
    (hr : s.rst = false) (hs : ∀ F, shapeDigest op s.width F = some (shape F)) :
    ticks bk 1 (acceptDigest op s) = digestCommand bk op shape s := by
  rw [ticks_succ (tick_final bk (s := acceptDigest op s) hr rfl (hs _))]
  rfl

/-! ### Every word -/

/-- The state in which `exec` takes the exception `e` of a command: a WRITE drains its payload besides (R127, R210). -/
def execFaulted (e : Status) (i : Instr) (s : State) : State :=
  match i with
  | .write len => faultWrite e len s
  | .new _ | .new64 _ | .new32 _ | .reset | .sum | .sumInto _ | .sum64 | .sum32 | .size | .blksz => raise e s

/-- A command that needs an accumulator first tests for one (R203): its exceptions are NOT_INIT and its own. -/
theorem whenConstructed_of_fault {s : State} {k : Result} {own : Option Status} {e : Status}
    (h : (if s.cfgValid = false then some .notInit else own) = some e)
    (hk : own = some e → k = .next (raise e s)) : whenConstructed s k = .next (raise e s) := by
  unfold whenConstructed
  split at h
  · cases h
    rw [if_pos ‹_›]
  · rw [if_neg ‹_›, hk h]

/-- The exception that the tests of R208 name is the one that `exec` takes. -/
theorem exec_of_faultOf {i : Instr} {s : State} {e : Status} (h : faultOf i s = some e) :
    exec i s = .next (execFaulted e i s) := by
  cases i with
  | new seed => cases h
  | new64 seed => cases h
  | new32 seed => cases h
  | write len =>
    simp only [faultOf] at h
    simp only [exec, execWrite, writeCommand, execFaulted]
    split at h
    · cases h
      rw [if_pos ‹_›]
    · split at h
      · cases h
        rw [if_neg ‹_›, if_pos ‹_›]
      · cases h
  | reset => exact whenConstructed_of_fault h nofun
  | sum => exact whenConstructed_of_fault h nofun
  | sumInto dstLen =>
    refine whenConstructed_of_fault h fun hown => ?_
    split at hown
    · cases hown
      rw [if_pos ‹_›]
    · split at hown
      · cases hown
        rw [if_neg ‹_›, if_pos ‹_›]
      · cases hown
  | sum64 =>
    refine whenConstructed_of_fault h fun hown => ?_
    split at hown
    · cases hown
      rw [if_pos ‹_›]
    · cases hown
  | sum32 => exact whenConstructed_of_fault h nofun
  | size => exact whenConstructed_of_fault h nofun
  | blksz => exact whenConstructed_of_fault h nofun

/-- Without an exception there is an accumulator, and no test of the command's own fails. -/
theorem valid_of_no_fault {s : State} {own : Option Status}
    (h : (if s.cfgValid = false then some .notInit else own) = none) : s.cfgValid = true ∧ own = none := by
  split at h
  · cases h
  · exact ⟨Bool.eq_true_of_not_eq_false ‹_›, h⟩

/-- A command that raises an exception is answered after its payload has been drained. -/
theorem ticks_acceptFaulted (bk : Backend) (e : Status) (i : Instr) {s : State} (hr : s.rst = false)
    (hd : payloadThere i s) : ticks bk i.payloadLength (acceptFaulted e i s) = .next (execFaulted e i s) := by
  cases i with
  | write len => exact ticks_acceptFaulted_write bk e hr hd
  | _ => rfl

/-- A legal command runs from its acceptance to the state that `exec` answers: a WRITE byte by byte, a digest command
through its `Fin` result, every other at once. -/
theorem ticks_acceptLegal {i : Instr} {s : State} (hf : faultOf i s = none) (hr : s.rst = false)
    (hb : s.buffersBounded) (hd : payloadThere i s) :
    ∃ k, ticks Config.backend k (acceptLegal i s) = exec i s := by
  cases i with
  | new seed => exact ⟨0, rfl⟩
  | new64 seed => exact ⟨0, rfl⟩
  | new32 seed => exact ⟨0, rfl⟩
  | write len =>
    obtain ⟨hv, hown⟩ := valid_of_no_fault hf
    refine ⟨_, (ticks_acceptLegal_write Config.backend hr hb hd).trans ?_⟩
    have hready : payloadReady len s = true := decide_eq_true hd
    split at hown
    · cases hown
    · simp only [exec, execWrite, writeCommand]
      rw [if_neg (by simp [hv]), if_neg ‹_›, if_pos hready]
  | reset => exact ⟨0, (whenConstructed_of_valid _ (valid_of_no_fault hf).1).symm⟩
  | sum =>
    have hv := (valid_of_no_fault hf).1
    exact ⟨1, (ticks_acceptDigest _ hr fun _ => rfl).trans (whenConstructed_of_valid _ hv).symm⟩
  | sumInto dstLen =>
    obtain ⟨hv, hown⟩ := valid_of_no_fault hf
    refine ⟨1, (ticks_acceptDigest _ hr fun _ => rfl).trans (Eq.trans ?_ (whenConstructed_of_valid _ hv).symm)⟩
    split at hown
    · cases hown
    · split at hown
      · cases hown
      · rw [if_neg ‹_›, if_neg ‹_›]
  | sum64 =>
    obtain ⟨hv, hown⟩ := valid_of_no_fault hf
    refine ⟨1, (ticks_acceptDigest _ hr fun _ => rfl).trans (Eq.trans ?_ (whenConstructed_of_valid _ hv).symm)⟩
    split at hown
    · cases hown
    · rw [if_neg ‹_›]
  | sum32 =>
    have hv := (valid_of_no_fault hf).1
    exact ⟨1, (ticks_acceptDigest _ hr fun _ => rfl).trans (whenConstructed_of_valid _ hv).symm⟩
  | size => exact ⟨0, (whenConstructed_of_valid _ (valid_of_no_fault hf).1).symm⟩
  | blksz => exact ⟨0, (whenConstructed_of_valid _ (valid_of_no_fault hf).1).symm⟩

/-- A word that decodes runs its command, and one that does not takes ILLEGAL (R75, R76). -/
theorem runWord_of_ok {w : CmdWord} {i : Instr} (s : State) (h : decode w = .ok i) : runWord w s = exec i s := by
  simp only [runWord, h]

theorem runWord_of_error {w : CmdWord} {why : Illegal} (s : State) (h : decode w = .error why) :
    runWord w s = .next (raise .illegal s) := by
  simp only [runWord, h]

/-- An accepted word runs to the state that the one atomic step answers (R3, R126). -/
theorem ticks_acceptWord {w : CmdWord} {s : State} (hr : s.rst = false) (hb : s.buffersBounded)
    (hd : ∀ i, decode w = .ok i → payloadThere i s) :
    ∃ k, ticks Config.backend k (acceptWord w s) = runWord w s := by
  rcases acceptWord_cases w s with ⟨why, hw, ha⟩ | ⟨i, e, hw, hf, ha⟩ | ⟨i, hw, hf, ha⟩
  · exact ⟨0, by rw [ha, ticks_zero, runWord_of_error s hw]⟩
  · exact ⟨i.payloadLength, by
      rw [ha, ticks_acceptFaulted _ e i hr (hd i hw), runWord_of_ok s hw, exec_of_faultOf hf]⟩
  · obtain ⟨k, hk⟩ := ticks_acceptLegal hf hr hb (hd i hw)
    exact ⟨k, by rw [ha, hk, runWord_of_ok s hw]⟩

/-- The payload of the word that is ready stands on the data channel. -/
theorem payloadThere_of_readyFor {s : State} {w : CmdWord} {ws : List CmdWord} {i : Instr} (h : s.readyFor w ws)
    (hw : decode w = .ok i) : payloadThere i s := by
  obtain ⟨_, _, _, hd⟩ := h
  cases i with
  | write len => exact hd len hw
  | _ => exact Nat.zero_le _

/-- The step of a word that is ready is its atomic run (R60, R75). -/
theorem step_of_readyFor {s : State} {w : CmdWord} {ws : List CmdWord} (h : s.readyFor w ws) :
    step s = runWord w { s with cmdIn := ws } := by
  obtain ⟨hr, hp, hc, _⟩ := h
  simp [step, blockStep, hr, hp, hc]

/-- Settles O21: one event accepts the word, and the events that follow drain or receive its payload, or take its `Fin`
result, up to the state of the atomic step. -/
theorem everyStepIsItsTransfers : Obligations.EveryStepIsItsTransfers := by
  intro s w ws h hb _
  have hd : ∀ i, decode w = .ok i → payloadThere i s := fun _ => payloadThere_of_readyFor h
  have ⟨hr, hp, hc, _⟩ := h
  obtain ⟨k, hk⟩ := ticks_acceptWord (s := { s with cmdIn := ws }) hr hb hd
  exact ⟨k + 1, by rw [ticks_succ (tick_idle _ hr hp hc), hk, step_of_readyFor h]⟩

end Sys2Proof.Machine
end

section
/-! PROOF. A command as one function of the state (R208 to R210): the exception that its tests name, or its effect; and
what the absorbing of a payload reads and writes (R115 to R117). -/

namespace Sys2Proof.Machine

/-! ### The effect of a command that raises no exception -/

/-- A digest command's effect (R150): the digest's payload in the response, the `Fin` call issued, nothing else. -/
def answerDigest (bk : Backend) (op : BitVec 8) (shape : Bytes16 → BitVec 128) (s : State) : State :=
  respond .ok (shape (finalize bk s)) (issueFin op s)

/-- The state of a WRITE that raises no exception (R110, R128): its payload absorbed, or still to be received. -/
def writeLegal (bk : Backend) (len : U64) (s : State) : State :=
  if payloadReady len s then respond .ok 0 (writePayload bk len (payloadBytes len s) (takePayload len s))
  else beginReceive len s

/-- The state that `exec` answers for a command that raises no exception (`exec_of_no_fault`). -/
def execLegal (i : Instr) (s : State) : State :=
  match i with
  | .new seed   => respond .ok 0 (construct .w16 seed s)
  | .new64 seed => respond .ok 0 (construct .w8 seed s)
  | .new32 seed => respond .ok 0 (construct .w4 seed s)
  | .write len  => writeLegal Config.backend len s
  | .reset      => respond .ok 0 (clearDatapath s)
  | .sum        => answerDigest Config.backend 0x30 (digestBytesPayload (widthBytes s.width)) s
  | .sumInto _  => answerDigest Config.backend 0x31 (digestBytesPayload 16) s
  | .sum64      => answerDigest Config.backend 0x32 (digestIntPayload 8) s
  | .sum32      => answerDigest Config.backend 0x33 (digestIntPayload 4) s
  | .size       => respond .ok (sizeValue s.width) s
  | .blksz      => respond .ok blockSizeValue s

/-- A constructed accumulator and no overflow: a WRITE takes its legal branch, under every backend (R112, R203). -/
theorem writeCommand_of_legal (bk : Backend) {len : U64} {s : State} (hv : s.cfgValid = true)
    (hL : ¬ lenOverflows s len = true) : writeCommand bk len s = .next (writeLegal bk len s) := by
  unfold writeCommand writeLegal
  rw [if_neg (by simp [hv]), if_neg hL]
  split <;> rfl

/-- The tests of R208 pass a WRITE exactly on a constructed accumulator whose length does not overflow. -/
theorem faultOf_write_eq_none {len : U64} {s : State} (h : faultOf (.write len) s = none) :
    s.cfgValid = true ∧ ¬ lenOverflows s len = true := by
  obtain ⟨hv, hown⟩ := valid_of_no_fault h
  exact ⟨hv, fun hL => by rw [if_pos hL] at hown; cases hown⟩

/-- A command that no test stops has its effect (R209). -/
theorem exec_of_no_fault {i : Instr} {s : State} (h : faultOf i s = none) : exec i s = .next (execLegal i s) := by
  cases i with
  | new seed => rfl
  | new64 seed => rfl
  | new32 seed => rfl
  | write len =>
    obtain ⟨hv, hL⟩ := faultOf_write_eq_none h
    exact writeCommand_of_legal _ hv hL
  | sumInto dstLen =>
    obtain ⟨hv, hown⟩ := valid_of_no_fault h
    refine (whenConstructed_of_valid _ hv).trans ?_
    split at hown
    · cases hown
    · split at hown
      · cases hown
      · rw [if_neg ‹_›, if_neg ‹_›]
        rfl
  | sum64 =>
    obtain ⟨hv, hown⟩ := valid_of_no_fault h
    refine (whenConstructed_of_valid _ hv).trans ?_
    split at hown
    · cases hown
    · rw [if_neg ‹_›]
      rfl
  | reset => exact whenConstructed_of_valid _ (valid_of_no_fault h).1
  | sum => exact whenConstructed_of_valid _ (valid_of_no_fault h).1
  | sum32 => exact whenConstructed_of_valid _ (valid_of_no_fault h).1
  | size => exact whenConstructed_of_valid _ (valid_of_no_fault h).1
  | blksz => exact whenConstructed_of_valid _ (valid_of_no_fault h).1

/-- What `exec` can answer, said once: the exception that the tests of R208 name, or the command's effect. -/
theorem exec_cases {i : Instr} {s t : State} (h : exec i s = .next t) :
    (∃ e, faultOf i s = some e ∧ t = execFaulted e i s) ∨ (faultOf i s = none ∧ t = execLegal i s) := by
  cases hf : faultOf i s with
  | some e =>
    rw [exec_of_faultOf hf] at h
    cases h
    exact .inl ⟨e, rfl, rfl⟩
  | none =>
    rw [exec_of_no_fault hf] at h
    cases h
    exact .inr ⟨rfl, rfl⟩

/-- Only NEW* runs without an accumulator (R203). -/
theorem cfgValid_of_no_fault {i : Instr} {s : State} (h : faultOf i s = none) (hi : isConstruct i = false) :
    s.cfgValid = true := by
  cases i with
  | new seed => cases hi
  | new64 seed => cases hi
  | new32 seed => cases hi
  | _ => exact (valid_of_no_fault h).1

/-- An exception leaves the architectural state as it is (R210). -/
theorem execFaulted_arch (e : Status) (i : Instr) (s : State) : (execFaulted e i s).arch = s.arch := by
  cases i with
  | write len => exact (faultWrite_keeps e len s).1
  | _ => rfl

/-! ### What the absorbing of a payload reads and writes -/

/-- The state `u` with the registers that steps 3 to 5 of a WRITE work on taken from `s`: the state register, the block
buffer and the record of calls. -/
def overlay (u s : State) : State := { u with S := s.S, P := s.P, calls := s.calls }

theorem overlay_writeStep3 (bk : Backend) (B : List Byte) (u s : State) :
    writeStep3 bk B (overlay u s) = (overlay u (writeStep3 bk B s).1, (writeStep3 bk B s).2) := by
  have hP : (overlay u s).P = s.P := rfl
  by_cases h : 0 < s.P.length
  · simp only [writeStep3, hP, if_pos h, apply_ite (overlay u)]
    rfl
  · simp only [writeStep3, hP, if_neg h]

theorem overlay_writeStep4 (bk : Backend) (u : State) (fuel : Nat) (B : List Byte) (s : State) :
    writeStep4 bk fuel B (overlay u s) = (overlay u (writeStep4 bk fuel B s).1, (writeStep4 bk fuel B s).2) := by
  induction fuel generalizing B s with
  | zero => rfl
  | succ fuel ih =>
    by_cases h : 256 ≤ B.length
    · simp only [writeStep4, if_pos h]
      exact ih _ (foldBlock bk (blockOf (B.take 256)) s)
    · simp only [writeStep4, if_neg h]

theorem overlay_writeStep5 (B : List Byte) (u s : State) :
    writeStep5 B (overlay u s) = overlay u (writeStep5 B s) := by
  unfold writeStep5
  split <;> rfl

/-- Steps 3 to 5 read and write those three registers alone (R115 to R117). -/
theorem absorbPayload_overlay (bk : Backend) (B : List Byte) (u s : State) :
    absorbPayload bk B (overlay u s) = overlay u (absorbPayload bk B s) := by
  simp only [absorbPayload, overlay_writeStep3, overlay_writeStep4, overlay_writeStep5]

/-- A WRITE on any state, its frame included (R110 to R117): what steps 3 to 5 come to is a function of the three
registers of a state `s` that agrees on them with the state `u` written to. -/
theorem writePayload_frame (bk : Backend) (len : U64) (B : List Byte) (u s : State) (h : overlay u s = u) :
    writePayload bk len B u = { u with
      S := (absorbPayload bk B s).S
      P := (absorbPayload bk B s).P
      calls := (absorbPayload bk B s).calls
      T := slideWindow u.T B
      L := u.L + len
      stream := u.stream ++ B } := by
  have habs := absorbPayload_overlay bk B (writeStep2 B (writeStep1 len u)) s
  have hover : overlay (writeStep2 B (writeStep1 len u)) s = writeStep2 B (writeStep1 len u) := by
    conv_rhs => rw [← h]
    rfl
  rw [hover] at habs
  rw [writePayload, habs]
  rfl

end Sys2Proof.Machine
end

section
/-! PROOF. The datapath and the stream (R36 to R40): what the datapath holds of its stream at each event, and how a
payload byte, a `Mix` result and a whole WRITE extend it. -/

namespace Sys2Proof.Machine

variable {bk : Backend} {s t : State} {k owed : Nat}

/-! ### What a state holds of its stream -/

/-- R36 to R40 with `k` blocks of the stream folded and `owed` bytes counted by `L` that have not come yet. -/
structure HoldsStream (bk : Backend) (k owed : Nat) (s : State) : Prop where
  folds  : 256 * k ≤ s.stream.length
  length : s.L.toNat = s.stream.length + owed
  buffer : s.P = s.stream.drop (256 * k)
  folded : s.S = foldFrom bk k zeroState s.stream
  window : s.T = lastBytes 16 s.stream

/-- Nothing is owed, and every whole block is folded. -/
def HoldsWholeStream (bk : Backend) (s : State) : Prop := HoldsStream bk (s.stream.length / 256) 0 s

/-- Only the architectural state and the ghost matter. -/
theorem HoldsStream.of_eq (h : HoldsStream bk k owed s) (ha : t.arch = s.arch) (hs : t.stream = s.stream) :
    HoldsStream bk k owed t := by
  obtain ⟨_, _, _, hS, hP, hT, hL⟩ := Arch.mk.inj ha
  obtain ⟨hle, hlen, hbuf, hfold, hwin⟩ := h
  exact ⟨hs ▸ hle, by rw [hL, hs, hlen], by rw [hP, hs, hbuf], by rw [hS, hs, hfold], by rw [hT, hs, hwin]⟩

theorem HoldsWholeStream.of_eq (h : HoldsWholeStream bk s) (ha : t.arch = s.arch) (hs : t.stream = s.stream) :
    HoldsWholeStream bk t := by
  have ht := HoldsStream.of_eq h ha hs
  rwa [← hs] at ht

theorem HoldsStream.length_P (h : HoldsStream bk k owed s) : s.P.length = s.stream.length - 256 * k := by
  rw [h.buffer, List.length_drop]

theorem HoldsStream.length_T (h : HoldsStream bk k owed s) : s.T.length = min 16 s.stream.length := by
  rw [h.window, length_lastBytes]

/-- With the whole stream held the buffers are within their bounds (R25, R27). -/
theorem HoldsWholeStream.bounded (h : HoldsWholeStream bk s) : s.buffersBounded := by
  have hP := HoldsStream.length_P h
  have hT := HoldsStream.length_T h
  exact ⟨by omega, by omega⟩

/-- The buffer is the stream's rest (R38). -/
theorem HoldsWholeStream.buffer_eq (h : HoldsWholeStream bk s) : s.P = streamRest s.stream := by
  rw [HoldsStream.buffer h, streamRest, lastBytes]
  congr 1
  omega

/-- The digest is the stream's (R39, R40, R150). -/
theorem HoldsWholeStream.finalize_eq (h : HoldsWholeStream bk s) : finalize bk s = digestOf bk s.seed s.stream := by
  have hlen : s.L.toNat = s.stream.length := HoldsStream.length h
  have hL : s.L = BitVec.ofNat 64 s.stream.length := by rw [← hlen, BitVec.ofNat_toNat, BitVec.setWidth_eq]
  have hS : s.S = foldStream bk s.stream := HoldsStream.folded h
  rw [finalize, digestOf, ← h.buffer_eq, ← hS, ← HoldsStream.window h, ← hL]

/-- NEW* and RESET leave the datapath of the empty stream (R100, R140). -/
theorem holdsWholeStream_of_cleared (hS : s.S = zeroState) (hP : s.P = []) (hT : s.T = []) (hL : s.L = 0)
    (hs : s.stream = []) : HoldsWholeStream bk s := by
  unfold HoldsWholeStream
  rw [hs]
  exact ⟨by simp, by rw [hL, hs]; rfl, by rw [hP, hs]; rfl, by rw [hS]; rfl, by rw [hT, hs]; rfl⟩

/-! ### A payload byte, a `Mix` result -/

/-- A byte absorbed (R124) is one byte less owed. -/
theorem HoldsStream.absorbByte (h : HoldsStream bk k (owed + 1) s) (b : Byte) :
    HoldsStream bk k owed (absorbByte b s) := by
  have hT : s.T.length ≤ 16 := by rw [h.length_T]; omega
  obtain ⟨hle, hlen, hbuf, hfold, hwin⟩ := h
  refine ⟨?_, ?_, ?_, ?_, ?_⟩
  · simp only [absorbByte_stream, List.length_append]
    omega
  · simp only [absorbByte_stream, absorbByte_L, List.length_append, List.length_singleton]
    omega
  · rw [absorbByte_P, absorbByte_stream, hbuf, List.drop_append_of_le_length hle]
  · rw [absorbByte_S, absorbByte_stream, hfold, foldFrom_append _ _ _ _ _ hle]
  · rw [absorbByte_T, absorbByte_stream, slide_one_byte hT, hwin, lastBytes_lastBytes_append]

/-- Receiving a byte changes the datapath as absorbing it does (R125). -/
theorem receiveByte_arch (b : Byte) (s : State) :
    (receiveByte b s).arch = (absorbByte b s).arch ∧ (receiveByte b s).stream = (absorbByte b s).stream := by
  rw [receiveByte_eq]
  exact ⟨rfl, rfl⟩

/-- The `Mix` result of a full buffer (R125) is one block more folded. -/
theorem HoldsStream.takeMixResult (h : HoldsStream bk k owed s) (hP : s.P.length = 256) :
    HoldsStream bk (k + 1) owed (takeMixResult (bk.mix s.S (blockOf s.P)) s) := by
  have hfull := h.length_P
  obtain ⟨hle, hlen, hbuf, hfold, hwin⟩ := h
  refine ⟨?_, hlen, ?_, ?_, hwin⟩
  · simp only [takeMixResult_stream]
    omega
  · simp only [takeMixResult_P, takeMixResult_stream]
    exact (List.drop_eq_nil_of_le (by omega)).symm
  · have hblock : (s.stream.drop (256 * k)).take 256 = s.P := by
      rw [← hbuf, List.take_of_length_le (le_of_eq hP)]
    rw [takeMixResult_S, takeMixResult_stream, foldFrom_add, ← hfold]
    simp only [foldFrom, hblock]

/-! ### A whole WRITE -/

/-- The whole blocks of `X ++ B`: those of `X`, then those of what `X` leaves over together with `B`. -/
theorem length_append_div (X B : List Byte) :
    (X ++ B).length / 256 = X.length / 256 + (X.drop (256 * (X.length / 256)) ++ B).length / 256 := by
  simp only [List.length_append, List.length_drop]
  omega

/-- The five steps of a WRITE that does not overflow (R110 to R118) keep R36 to R40. -/
theorem HoldsWholeStream.writePayload (h : HoldsWholeStream bk s) {len : U64} {B : List Byte}
    (hB : B.length = len.toNat) (hL : s.L.toNat + len.toNat < 2 ^ 64) :
    HoldsWholeStream bk (writePayload bk len B s) := by
  rw [writePayload_eq bk len B s h.bounded.1]
  obtain ⟨hle, hlen, hbuf, hfold, hwin⟩ := h
  have hX : s.P ++ B = (s.stream ++ B).drop (256 * (s.stream.length / 256)) := by
    rw [hbuf, List.drop_append_of_le_length hle]
  have hq : (s.stream ++ B).length / 256 = s.stream.length / 256 + (s.P ++ B).length / 256 := by
    rw [hbuf, length_append_div s.stream B]
  refine ⟨Nat.mul_div_le _ _, ?_, ?_, ?_, ?_⟩ <;> dsimp only
  · rw [BitVec.toNat_add, Nat.mod_eq_of_lt hL, List.length_append, hlen, hB]
    rfl
  · rw [hq, Nat.mul_add, ← List.drop_drop, ← hX]
  · rw [hq, foldFrom_add, foldFrom_append _ _ _ _ _ hle, ← hX, hfold]
  · rw [hwin, lastBytes_lastBytes_append]

/-- A WRITE with its payload there, from its tests to its response. -/
theorem HoldsWholeStream.writeLegal (h : HoldsWholeStream bk s) {len : U64} (hL : ¬ lenOverflows s len = true)
    (hd : payloadReady len s = true) : HoldsWholeStream bk (writeLegal bk len s) := by
  have hlen : (payloadBytes len s).length = len.toNat := by simpa [payloadBytes, payloadReady] using hd
  have hfits : s.L.toNat + len.toNat < 2 ^ 64 := by simpa [lenOverflows] using hL
  have htaken : HoldsWholeStream bk (takePayload len s) := h.of_eq rfl rfl
  rw [Machine.writeLegal, if_pos hd]
  exact (htaken.writePayload hlen hfits).of_eq rfl rfl

/-- A WRITE short of its payload (R125, R128): `L` counts its bytes, which are all still owed. -/
theorem HoldsWholeStream.beginReceive (h : HoldsWholeStream bk s) {len : U64} (hL : ¬ lenOverflows s len = true) :
    HoldsStream bk (s.stream.length / 256) len.toNat (beginReceive len s) := by
  have hfits : s.L.toNat + len.toNat < 2 ^ 64 := by simpa [lenOverflows] using hL
  obtain ⟨hle, hlen, hbuf, hfold, hwin⟩ := h
  refine ⟨hle, ?_, hbuf, hfold, hwin⟩
  rw [beginReceive_L, beginReceive_stream, BitVec.toNat_add, Nat.mod_eq_of_lt hfits, hlen]
  rfl

end Sys2Proof.Machine
end

section
/-! PROOF. The invariant of the machine: what it says in each phase, and that reset has it and every step keeps it. -/

namespace Sys2Proof.Machine

variable {bk : Backend} {s t : State} {k owed : Nat}

/-! ### The datapath's part -/

/-- The datapath's invariant is that the stream is held, with as many folds and bytes owed as the phase says. -/
theorem DatapathInv.holdsStream (h : DatapathInv bk s) : HoldsStream bk (foldsMade s) (bytesOwed s) s := by
  obtain ⟨hlen, hbuf, hfold, hwin⟩ := h
  refine ⟨?_, hlen, hbuf, hfold, hwin⟩
  unfold foldsMade
  split <;> omega

theorem HoldsStream.datapathInv (h : HoldsStream bk k owed s) (hk : foldsMade s = k) (ho : bytesOwed s = owed) :
    DatapathInv bk s := by
  subst hk ho
  exact ⟨h.length, h.buffer, h.folded, h.window⟩

/-- Outside RECV and FOLD nothing is owed and every whole block is folded. -/
theorem datapathInv_iff_of_not_receiving (hr : s.phase ≠ .recv) (hf : s.phase ≠ .fold) :
    DatapathInv bk s ↔ HoldsWholeStream bk s := by
  have howed : bytesOwed s = 0 := if_neg (by simp [hr, hf])
  have hmade : foldsMade s = s.stream.length / 256 := if_neg hf
  constructor
  · intro h
    have hs := h.holdsStream
    rwa [howed, hmade] at hs
  · intro h
    exact HoldsStream.datapathInv h hmade howed

/-- A buffer that is not full holds what the whole blocks leave over. -/
theorem HoldsStream.folds_eq (h : HoldsStream bk k owed s) (hP : s.P.length < 256) : k = s.stream.length / 256 := by
  have hle := h.folds
  have hlen := h.length_P
  omega

theorem HoldsStream.whole (h : HoldsStream bk k owed s) (ho : owed = 0) (hP : s.P.length < 256) :
    HoldsWholeStream bk s := by
  have hk := h.folds_eq hP
  rwa [hk, ho] at h

/-! ### Phases where no payload is awaited -/

/-- What the invariant says between commands, whatever the phase is called. -/
structure AtRest (bk : Backend) (s : State) : Prop where
  remZero : s.rem = 0
  bounded : s.buffersBounded
  holds   : s.cfgValid = true → HoldsWholeStream bk s

theorem AtRest.of_eq (h : AtRest bk s) (ha : t.arch = s.arch) (hs : t.stream = s.stream) (hr : t.rem = 0) :
    AtRest bk t := by
  obtain ⟨hv, _, _, _, hP, hT, _⟩ := Arch.mk.inj ha
  exact ⟨hr, by rw [State.buffersBounded, hP, hT]; exact h.bounded,
    fun hc => (h.holds (hv ▸ hc)).of_eq ha hs⟩

theorem HoldsWholeStream.atRest (h : HoldsWholeStream bk s) (hr : s.rem = 0) : AtRest bk s :=
  ⟨hr, h.bounded, fun _ => h⟩

/-- In IDLE, FINAL and RESP the state is at rest. -/
theorem Inv.atRest (h : Inv bk s) (hp : s.phase = .idle ∨ s.phase = .final ∨ s.phase = .resp) : AtRest bk s := by
  have hr : s.phase ≠ .recv := by rcases hp with hp | hp | hp <;> simp [hp]
  have hf : s.phase ≠ .fold := by rcases hp with hp | hp | hp <;> simp [hp]
  exact ⟨h.remZero hp, ⟨h.bufferNotFull hf, h.windowBound⟩,
    fun hv => (datapathInv_iff_of_not_receiving hr hf).mp (h.datapath hv)⟩

/-- In IDLE and RESP that is all of the invariant. -/
theorem AtRest.inv (h : AtRest bk s) (hp : s.phase = .idle ∨ s.phase = .resp) : Inv bk s where
  bufferFull hf := by simp [hf] at hp
  bufferNotFull _ := h.bounded.1
  windowBound := h.bounded.2
  remZero _ := h.remZero
  remNotZero hr := by rcases hr with hr | hr <;> simp [hr] at hp
  constructed hr := by rcases hr with hr | hr | hr <;> simp [hr] at hp
  digestHeld hf := by simp [hf] at hp
  datapath hv := (datapathInv_iff_of_not_receiving (fun hr => by simp [hr] at hp) (fun hf => by simp [hf] at hp)).mpr
    (h.holds hv)

/-! ### Phases where payload is awaited -/

/-- In DRAIN: the datapath as at rest, and a byte to be discarded (R34, R127). -/
theorem inv_of_drain (hp : s.phase = .drain) (hr : s.rem ≠ 0) (hb : s.buffersBounded)
    (h : s.cfgValid = true → HoldsWholeStream bk s) : Inv bk s where
  bufferFull hf := by simp [hp] at hf
  bufferNotFull _ := hb.1
  windowBound := hb.2
  remZero hf := by simp [hp] at hf
  remNotZero _ := hr
  constructed hf := by simp [hp] at hf
  digestHeld hf := by simp [hp] at hf
  datapath hv := (datapathInv_iff_of_not_receiving (by simp [hp]) (by simp [hp])).mpr (h hv)

/-- In RECV: an accumulator, room in the buffer, and a byte to come (R34, R124). -/
theorem inv_of_recv (hp : s.phase = .recv) (hv : s.cfgValid = true) (hr : s.rem ≠ 0) (hP : s.P.length < 256)
    (h : HoldsStream bk k s.rem.toNat s) : Inv bk s where
  bufferFull hf := by simp [hp] at hf
  bufferNotFull _ := hP
  windowBound := by rw [h.length_T]; omega
  remZero hf := by simp [hp] at hf
  remNotZero _ := hr
  constructed _ := hv
  digestHeld hf := by simp [hp] at hf
  datapath _ := h.datapathInv ((if_neg (by simp [hp])).trans (h.folds_eq hP).symm) (if_pos (.inl hp))

/-- In FOLD: an accumulator and a full buffer, not yet folded (R26, R125). -/
theorem inv_of_fold (hp : s.phase = .fold) (hv : s.cfgValid = true) (hP : s.P.length = 256)
    (h : HoldsStream bk k s.rem.toNat s) : Inv bk s where
  bufferFull _ := hP
  bufferNotFull hf := absurd hp hf
  windowBound := by rw [h.length_T]; omega
  remZero hf := by simp [hp] at hf
  remNotZero hf := by simp [hp] at hf
  constructed _ := hv
  digestHeld hf := by simp [hp] at hf
  datapath _ := by
    have hlen := h.length_P
    exact h.datapathInv ((if_pos hp).trans (by omega)) (if_pos (.inr hp))

/-- In RECV and FOLD the stream is held but for the bytes announced. -/
theorem Inv.holdsStream (h : Inv bk s) (hp : s.phase = .recv ∨ s.phase = .fold) :
    HoldsStream bk (foldsMade s) s.rem.toNat s := by
  have hv : s.cfgValid = true := h.constructed (hp.imp_right .inl)
  have hs := (h.datapath hv).holdsStream
  rwa [show bytesOwed s = s.rem.toNat from if_pos hp] at hs

/-- The words and bytes the host presents are no part of the invariant. -/
theorem Inv.present (h : Inv bk s) (ws : List CmdWord) (bs : List Byte) :
    Inv bk { s with cmdIn := ws, dataIn := bs } := by
  obtain ⟨h1, h2, h3, h4, h5, h6, h7, h8⟩ := h
  refine ⟨h1, h2, h3, h4, h5, h6, h7, fun hv => ?_⟩
  obtain ⟨hlen, hbuf, hfold, hwin⟩ := h8 hv
  exact ⟨hlen, hbuf, hfold, hwin⟩

/-! ### Events of the sequencer -/

/-- HRESET leaves no accumulator, and the buffers within their bounds (R230). -/
theorem inv_hreset (bk : Backend) (s : State) : Inv bk (hreset s) :=
  AtRest.inv ⟨rfl, hreset_bounded s, nofun⟩ (.inl rfl)

/-- A command's response waits, with the state at rest. -/
theorem AtRest.inv_respond (h : AtRest bk s) (st : Status) (pl : BitVec 128) : Inv bk (respond st pl s) :=
  (h.of_eq (t := respond st pl s) rfl rfl h.remZero).inv (.inr rfl)

/-- A digest's response likewise: the `Fin` call changes no architectural state (R150). -/
theorem AtRest.inv_answerDigest (h : AtRest bk s) (op : BitVec 8) (shape : Bytes16 → BitVec 128) :
    Inv bk (answerDigest bk op shape s) :=
  (h.of_eq (t := issueFin op s) rfl rfl h.remZero).inv_respond .ok _

/-- A payload byte, and FOLD, RESP or RECV after it (R124, R125). -/
theorem Inv.receiveByte (h : Inv bk s) (hp : s.phase = .recv) (b : Byte) : Inv bk (receiveByte b s) := by
  have hv := h.constructed (.inl hp)
  have hP := h.bufferNotFull (by simp [hp])
  obtain ⟨n, hn⟩ : ∃ n, s.rem.toNat = n + 1 := by
    have hne := h.remNotZero (.inl hp)
    exact Nat.exists_eq_succ_of_ne_zero fun h0 => hne (BitVec.eq_of_toNat_eq h0)
  obtain ⟨_, hsub⟩ := ne_zero_and_toNat_sub_one hn
  have hs := h.holdsStream (.inl hp)
  rw [hn] at hs
  have ht : HoldsStream bk (foldsMade s) (s.rem - 1).toNat (Machine.receiveByte b s) := by
    rw [hsub]
    exact (hs.absorbByte b).of_eq (receiveByte_arch b s).1 (receiveByte_arch b s).2
  by_cases hfull : s.P.length + 1 = 256
  · rw [receiveByte_of_full b h.windowBound hfull] at ht ⊢
    exact inv_of_fold rfl hv (by simpa using hfull) ht
  · rw [receiveByte_of_room b h.windowBound hfull] at ht ⊢
    have hroom : (s.P ++ [b]).length < 256 := by
      rw [List.length_append, List.length_singleton]
      omega
    by_cases h0 : s.rem - 1 = 0
    · exact ((ht.whole (by rw [h0]; rfl) hroom).atRest h0).inv (.inr (if_pos h0))
    · exact inv_of_recv ((if_neg h0).trans hp) hv h0 hroom ht

/-- The `Mix` result, and RESP or RECV after it (R125). -/
theorem Inv.takeMixResult (h : Inv bk s) (hp : s.phase = .fold) :
    Inv bk (takeMixResult (bk.mix s.S (blockOf s.P)) s) := by
  have ht := (h.holdsStream (.inr hp)).takeMixResult (h.bufferFull hp)
  by_cases h0 : s.rem = 0
  · exact ((ht.whole (by rw [h0]; rfl) (by simp)).atRest h0).inv (.inr (if_pos h0))
  · exact inv_of_recv (if_neg h0) (h.constructed (.inr (.inl hp))) h0 (by simp) ht

/-- A byte discarded, and RESP or DRAIN after it (R125, R127). -/
theorem Inv.drainByte (h : Inv bk s) (hp : s.phase = .drain) : Inv bk (drainByte s) := by
  have hb : s.buffersBounded := ⟨h.bufferNotFull (by simp [hp]), h.windowBound⟩
  have hs : s.cfgValid = true → HoldsWholeStream bk s := fun hv =>
    (datapathInv_iff_of_not_receiving (by simp [hp]) (by simp [hp])).mp (h.datapath hv)
  by_cases h0 : s.rem - 1 = 0
  · exact AtRest.inv ⟨h0, hb, fun hv => (hs hv).of_eq rfl rfl⟩ (.inr (if_pos h0))
  · exact inv_of_drain (if_neg h0) h0 hb fun hv => (hs hv).of_eq rfl rfl

/-- Every event but the acceptance of a word keeps the invariant (R124, R125), for every backend. -/
theorem Inv.tick_of_busy (h : Inv bk s) (hp : s.phase ≠ .idle) (ht : tick bk s = .next t) : Inv bk t := by
  rcases tick_cases ht with ⟨_, rfl⟩ | ⟨_, rfl⟩ | ⟨w, ws, _, hidle, _, _⟩ | ⟨b, bs, _, hrecv, _, rfl⟩ |
    ⟨_, hfold, _, rfl⟩ | ⟨b, bs, _, hdrain, _, rfl⟩ | ⟨pl, _, hfin, _, rfl⟩ | ⟨_, hresp, _, rfl⟩
  · exact inv_hreset bk s
  · exact h
  · exact absurd hidle hp
  · exact (h.present s.cmdIn bs).receiveByte hrecv b
  · exact h.takeMixResult hfold
  · exact (h.present s.cmdIn bs).drainByte hdrain
  · exact (h.atRest (.inr (.inl hfin))).inv_respond .ok pl
  · have hs := h.atRest (.inr (.inr hresp))
    exact (hs.of_eq (t := transferResponse s) rfl rfl hs.remZero).inv (.inl rfl)

/-! ### Commands -/

/-- A count of bytes that is longer than what is presented is not 0. -/
theorem ne_zero_of_not_payloadReady {len : U64} (h : ¬ payloadReady len s = true) : len ≠ 0 := by
  rintro rfl
  exact h (by simp [payloadReady])

/-- An exception taken: RESP, or DRAIN for a WRITE short of its payload (R125, R127, R210). -/
theorem AtRest.inv_execFaulted (h : AtRest bk s) (e : Status) (i : Instr) : Inv bk (execFaulted e i s) := by
  cases i with
  | write len =>
    simp only [execFaulted, faultWrite]
    split
    · exact (h.of_eq rfl rfl rfl : AtRest bk (takePayload len s)).inv_respond e 0
    · exact inv_of_drain rfl (ne_zero_of_not_payloadReady ‹_›) h.bounded fun hv => (h.holds hv).of_eq rfl rfl
  | _ => exact h.inv_respond e 0

/-- The datapath cleared, and constructed or not (R100, R140). -/
theorem AtRest.inv_respond_cleared (h : AtRest bk s) (hS : t.S = zeroState) (hP : t.P = []) (hT : t.T = [])
    (hL : t.L = 0) (hs : t.stream = []) (hr : t.rem = s.rem) : Inv bk (respond .ok 0 t) :=
  ((holdsWholeStream_of_cleared hS hP hT hL hs).atRest (hr.trans h.remZero)).inv_respond .ok 0

/-- A WRITE that no test stops: RESP, or RECV where it is short of its payload (R110, R128). -/
theorem AtRest.inv_writeLegal (h : AtRest bk s) {len : U64} (hv : s.cfgValid = true)
    (hL : ¬ lenOverflows s len = true) : Inv bk (writeLegal bk len s) := by
  by_cases hd : payloadReady len s = true
  · have hs := (h.holds hv).writeLegal hL hd
    rw [writeLegal, if_pos hd] at hs ⊢
    exact (hs.atRest ((writePayload_eq bk len _ (takePayload len s) h.bounded.1) ▸ rfl)).inv (.inr rfl)
  · rw [writeLegal, if_neg hd]
    exact inv_of_recv rfl hv (ne_zero_of_not_payloadReady hd) h.bounded.1 ((h.holds hv).beginReceive hL)

/-- A command that no test stops: RESP, or RECV for a WRITE short of its payload. -/
theorem AtRest.inv_execLegal {i : Instr} (h : AtRest Config.backend s) (hf : faultOf i s = none) :
    Inv Config.backend (execLegal i s) := by
  cases i with
  | new seed => exact h.inv_respond_cleared (t := construct .w16 seed s) rfl rfl rfl rfl rfl rfl
  | new64 seed => exact h.inv_respond_cleared (t := construct .w8 seed s) rfl rfl rfl rfl rfl rfl
  | new32 seed => exact h.inv_respond_cleared (t := construct .w4 seed s) rfl rfl rfl rfl rfl rfl
  | write len =>
    obtain ⟨hv, hL⟩ := faultOf_write_eq_none hf
    exact h.inv_writeLegal hv hL
  | reset => exact h.inv_respond_cleared (t := clearDatapath s) rfl rfl rfl rfl rfl rfl
  | size => exact h.inv_respond .ok _
  | blksz => exact h.inv_respond .ok _
  | sum | sumInto dstLen | sum64 | sum32 => exact h.inv_answerDigest _ _

/-! ### The obligations -/

/-- Settles O44: in IDLE the step is a command's exception or effect from a state at rest, in every other phase an event
of the sequencer, and each of them leads to what the invariant says of the phase that follows. -/
theorem stepKeepsTheInvariant : Obligations.StepKeepsTheInvariant := by
  intro s t h ht
  rcases step_cases s with ⟨_, e⟩ | ⟨_, _, _, e⟩ | ⟨w, ws, i, _, hp, _, _, e⟩ | ⟨w, ws, why, _, hp, _, _, e⟩ |
    ⟨_, hp, e⟩ <;> rw [e] at ht
  · cases ht
    exact inv_hreset _ s
  · cases ht
    exact h
  · have hs : AtRest Config.backend { s with cmdIn := ws } := (h.present ws s.dataIn).atRest (.inl hp)
    rcases exec_cases ht with ⟨e, _, rfl⟩ | ⟨hf, rfl⟩
    · exact hs.inv_execFaulted e i
    · exact hs.inv_execLegal hf
  · cases ht
    exact ((h.present ws s.dataIn).atRest (.inl hp)).inv_respond .illegal 0
  · exact h.tick_of_busy hp ht

/-- Settles O47: at rest the machine holds the whole stream. -/
theorem boundaryDatapathIsTheStreams : Obligations.BoundaryDatapathIsTheStreams := by
  intro bk s h hp hv
  have hs : HoldsWholeStream bk s := (h.atRest (.inl hp)).holds hv
  have hP := HoldsStream.length_P hs
  have hlen : s.L.toNat = s.stream.length := HoldsStream.length hs
  have hmod : s.P.length = s.stream.length % 256 := by omega
  refine ⟨hlen, hlen ▸ hmod, ?_, HoldsStream.folded hs, hlen ▸ HoldsStream.length_T hs, HoldsStream.window hs⟩
  rw [hmod]
  exact hs.buffer_eq

/-- Settles O43: right after reset the machine is at rest, with no accumulator. -/
theorem invariantHoldsAtReset : Obligations.InvariantHoldsAtReset :=
  AtRest.inv ⟨rfl, ⟨by decide, by decide⟩, nofun⟩ (.inl rfl)

/-- Settles O49, by the definition of the reset state (R42, R230). -/
theorem resetValues : Obligations.ResetValues := ⟨rfl, rfl, rfl, rfl⟩

end Sys2Proof.Machine
end

section
/-! PROOF. What steps leave alone: the configuration (R21 to R23), and the total length, which only grows (R28, R112). -/

namespace Sys2Proof.Machine

variable {bk : Backend} {s t : State}

/-- A WRITE that no test stops keeps the configuration and adds its bytes to `L` (R111). -/
theorem writeLegal_frame (bk : Backend) (len : U64) (s : State) :
    (writeLegal bk len s).cfgValid = s.cfgValid ∧ (writeLegal bk len s).seed = s.seed ∧
      (writeLegal bk len s).width = s.width ∧ (writeLegal bk len s).L = s.L + len := by
  unfold writeLegal
  split
  · rw [writePayload_frame bk len (payloadBytes len s) (takePayload len s) (takePayload len s) rfl]
    exact ⟨rfl, rfl, rfl, rfl⟩
  · exact ⟨rfl, rfl, rfl, rfl⟩

/-- Only NEW* writes the configuration. -/
theorem execLegal_config {i : Instr} (hi : isConstruct i = false) (s : State) :
    (execLegal i s).cfgValid = s.cfgValid ∧ (execLegal i s).seed = s.seed ∧ (execLegal i s).width = s.width := by
  cases i with
  | new seed => cases hi
  | new64 seed => cases hi
  | new32 seed => cases hi
  | write len =>
    obtain ⟨hv, hseed, hwidth, _⟩ := writeLegal_frame Config.backend len s
    exact ⟨hv, hseed, hwidth⟩
  | _ => exact ⟨rfl, rfl, rfl⟩

/-- Without NEW* and RESET, `L` is kept, or a WRITE advances it, whose overflow R112 has refused. -/
theorem le_execLegal_L {i : Instr} {s : State} (hi : isConstruct i = false) (hreset : i ≠ .reset)
    (hf : faultOf i s = none) : s.L.toNat ≤ (execLegal i s).L.toNat := by
  cases i with
  | new seed => cases hi
  | new64 seed => cases hi
  | new32 seed => cases hi
  | write len =>
    obtain ⟨_, hL⟩ := faultOf_write_eq_none hf
    obtain ⟨_, _, _, hlen⟩ := writeLegal_frame Config.backend len s
    have hfits : s.L.toNat + len.toNat < 2 ^ 64 := by simpa [lenOverflows] using hL
    rw [execLegal, hlen, BitVec.toNat_add, Nat.mod_eq_of_lt hfits]
    exact Nat.le_add_right _ _
  | reset => exact absurd rfl hreset
  | _ => exact Nat.le_refl _

/-- Between the acceptance of a command and the next, the events write neither the configuration nor `L`: it was
advanced on acceptance (R125). -/
theorem tick_config_of_busy (h : tick bk s = .next t) (hr : s.rst = false) (hp : s.phase ≠ .idle) :
    t.cfgValid = s.cfgValid ∧ t.seed = s.seed ∧ t.width = s.width ∧ t.L = s.L := by
  rcases tick_cases h with ⟨hrst, _⟩ | ⟨_, rfl⟩ | ⟨w, ws, _, hidle, _, _⟩ | ⟨b, bs, _, _, _, rfl⟩ | ⟨_, _, _, rfl⟩ |
    ⟨b, bs, _, _, _, rfl⟩ | ⟨pl, _, _, _, rfl⟩ | ⟨_, _, _, rfl⟩
  · rw [hr] at hrst
    cases hrst
  · exact ⟨rfl, rfl, rfl, rfl⟩
  · exact absurd hidle hp
  · rw [receiveByte_eq]
    exact ⟨rfl, rfl, rfl, rfl⟩
  all_goals exact ⟨rfl, rfl, rfl, rfl⟩

/-- What a step out of HRESET can do to the configuration and to `L`, said once: nothing, or the effect of a command that
no test stops. -/
theorem step_config (h : step s = .next t) (hr : s.rst = false) :
    (t.cfgValid = s.cfgValid ∧ t.seed = s.seed ∧ t.width = s.width ∧ t.L = s.L) ∨
    (∃ w ws i, s.phase = .idle ∧ s.cmdIn = w :: ws ∧ decode w = .ok i ∧ faultOf i { s with cmdIn := ws } = none ∧
      t = execLegal i { s with cmdIn := ws }) := by
  rcases step_cases s with ⟨hrst, _⟩ | ⟨_, _, _, e⟩ | ⟨w, ws, i, _, hp, hc, hw, e⟩ | ⟨w, ws, why, _, _, _, _, e⟩ |
    ⟨_, hp, e⟩
  · rw [hr] at hrst
    cases hrst
  · rw [e] at h
    cases h
    exact .inl ⟨rfl, rfl, rfl, rfl⟩
  · rw [e] at h
    rcases exec_cases h with ⟨e, _, rfl⟩ | ⟨hf, rfl⟩
    · obtain ⟨hv, hseed, hwidth, _, _, _, hL⟩ := Arch.mk.inj (execFaulted_arch e i { s with cmdIn := ws })
      exact .inl ⟨hv, hseed, hwidth, hL⟩
    · exact .inr ⟨w, ws, i, hp, hc, hw, hf, rfl⟩
  · rw [e] at h
    cases h
    exact .inl ⟨rfl, rfl, rfl, rfl⟩
  · exact .inl (tick_config_of_busy (e ▸ h) hr hp)

/-- Settles O40: of the commands' effects only that of NEW* writes the configuration. -/
theorem onlyConstructionWritesTheConfiguration : Obligations.OnlyConstructionWritesTheConfiguration := by
  intro s t h hr hcmd
  rcases step_config h hr with ⟨hv, hseed, hwidth, _⟩ | ⟨w, ws, i, hp, hc, hw, _, rfl⟩
  · exact ⟨hv, hseed, hwidth⟩
  · exact execLegal_config (hcmd w ws i hp hc hw) { s with cmdIn := ws }

/-- Settles O41: a step keeps `L`, or is a WRITE that does not overflow. -/
theorem totalLengthNeverDecreases : Obligations.TotalLengthNeverDecreases := by
  intro s t h hr hcmd
  rcases step_config h hr with ⟨_, _, _, hL⟩ | ⟨w, ws, i, hp, hc, hw, hf, rfl⟩
  · exact le_of_eq (congrArg BitVec.toNat hL.symm)
  · obtain ⟨hi, hreset⟩ := hcmd w ws i hp hc hw
    exact le_execLegal_L hi hreset hf

end Sys2Proof.Machine
end

section
/-! PROOF. The digest of an accumulator is its seed's and its stream's (R41, R150): chunks written one after another, and
SUM after them. -/

namespace Sys2Proof.Machine

variable {bk : Backend} {s t : State}

/-! ### An accumulator that holds a stream -/

/-- A constructed accumulator with its seed and width, the stream it holds, and the payload bytes presented to it. -/
structure Accumulates (bk : Backend) (seed : U64) (width : Width) (stream data : List Byte) (s : State) : Prop where
  valid  : s.cfgValid = true
  seed   : s.seed = seed
  width  : s.width = width
  stream : s.stream = stream
  data   : s.dataIn = data
  holds  : HoldsWholeStream bk s

variable {seed : U64} {width : Width} {X data rest : List Byte}

/-- The end of a command changes none of it. -/
theorem Accumulates.transferResponse (h : Accumulates bk seed width X data s) :
    Accumulates bk seed width X data (transferResponse s) := by
  obtain ⟨hv, hseed, hwidth, hs, hd, hh⟩ := h
  exact ⟨hv, hseed, hwidth, hs, hd, hh.of_eq rfl rfl⟩

/-- NEW* begins with the empty stream (R100). -/
theorem accumulates_construct (bk : Backend) (seed : U64) (width : Width) (s : State) :
    Accumulates bk seed width [] s.dataIn (construct width seed s) :=
  ⟨rfl, rfl, rfl, rfl, rfl, holdsWholeStream_of_cleared rfl rfl rfl rfl rfl⟩

/-- A WRITE of bytes that are presented appends them to the stream (R110). -/
theorem Accumulates.writeCommand {c : List Byte} (h : Accumulates bk seed width X (c ++ rest) s)
    (hX : (X ++ c).length < 2 ^ 64) :
    ∃ t, writeCommand bk (BitVec.ofNat 64 c.length) s = .next t ∧ Accumulates bk seed width (X ++ c) rest t := by
  obtain ⟨hv, hseed, hwidth, hs, hd, hh⟩ := h
  rw [List.length_append] at hX
  have hlen : (BitVec.ofNat 64 c.length).toNat = c.length := by
    rw [BitVec.toNat_ofNat, Nat.mod_eq_of_lt (by omega)]
  have hL : s.L.toNat = X.length := by rw [← hs]; exact HoldsStream.length hh
  have hfits : ¬ lenOverflows s (BitVec.ofNat 64 c.length) = true := by
    simp only [lenOverflows, hlen, hL, decide_eq_true_eq]
    omega
  have hready : payloadReady (BitVec.ofNat 64 c.length) s = true := by simp [payloadReady, hlen, hd]
  have hB : payloadBytes (BitVec.ofNat 64 c.length) s = c := by rw [payloadBytes, hlen, hd, List.take_left]
  refine ⟨_, writeCommand_of_legal bk hv hfits, ?_⟩
  obtain ⟨hv', hseed', hwidth', _⟩ := writeLegal_frame bk (BitVec.ofNat 64 c.length) s
  refine ⟨hv'.trans hv, hseed'.trans hseed, hwidth'.trans hwidth, ?_, ?_, hh.writeLegal hfits hready⟩ <;>
    rw [writeLegal, if_pos hready, hB,
      writePayload_frame bk _ c (takePayload _ s) (takePayload (BitVec.ofNat 64 c.length) s) rfl]
  · exact congrArg (· ++ c) hs
  · exact (congrArg₂ List.drop hlen hd).trans List.drop_left

/-- SUM returns the digest of the stream at the accumulator's width (R150, R151), and takes no payload. -/
theorem Accumulates.sumCommand (h : Accumulates bk seed width X data s) :
    ∃ t, sumCommand bk s = .next t ∧ t.dataIn = data ∧
      t.rspHold = responseWord .ok (digestBytesPayload (widthBytes width) (digestOf bk seed X)) := by
  obtain ⟨hv, hseed, hwidth, hs, hd, hh⟩ := h
  refine ⟨_, whenConstructed_of_valid _ hv, hd, ?_⟩
  rw [respond_rspHold, hh.finalize_eq, hseed, hwidth, hs]

/-! ### Chunks -/

/-- A command, its response accepted, and the rest of the commands. -/
theorem runCommands_cons {i : Instr} (is : List Instr) (h : exec i s = .next t) :
    runCommands (i :: is) s = runCommands is (transferResponse t) := by
  simp only [runCommands, h]

/-- WRITEs of chunks, and SUM: the digest of the whole stream. -/
theorem Accumulates.runCommands_writes_sum {cs : List (List Byte)}
    (h : Accumulates Config.backend seed width X (cs.flatten ++ rest) s) (hX : (X ++ cs.flatten).length < 2 ^ 64) :
    ∃ t, runCommands (cs.map writeOf ++ [.sum]) s = .next t ∧ t.dataIn = rest ∧
      t.rspHold = responseWord .ok
        (digestBytesPayload (widthBytes width) (digestOf Config.backend seed (X ++ cs.flatten))) := by
  induction cs generalizing X s with
  | nil =>
    obtain ⟨t, ht, hd, hrsp⟩ := h.sumCommand
    refine ⟨Machine.transferResponse t, runCommands_cons (i := .sum) [] ht, hd, ?_⟩
    rw [List.flatten_nil, List.append_nil]
    exact hrsp
  | cons c cs ih =>
    rw [List.flatten_cons, List.append_assoc] at h
    rw [List.flatten_cons, ← List.append_assoc] at hX ⊢
    obtain ⟨t, ht, hacc⟩ := h.writeCommand (by rw [List.length_append] at hX; omega)
    rw [List.map_cons, List.cons_append, runCommands_cons (i := writeOf c) _ ht]
    exact ih hacc.transferResponse hX

/-- The same after a constructor. -/
theorem runCommands_construct_writes_sum {x : Instr} (hx : ∀ s, exec x s = .next (respond .ok 0 (construct width seed s)))
    {cs : List (List Byte)} (hd : s.dataIn = cs.flatten ++ rest) (hlen : cs.flatten.length < 2 ^ 64) :
    ∃ t, runCommands (x :: cs.map writeOf ++ [.sum]) s = .next t ∧
      t.rspHold = responseWord .ok
        (digestBytesPayload (widthBytes width) (digestOf Config.backend seed cs.flatten)) ∧ t.dataIn = rest := by
  have h : Accumulates Config.backend seed width [] (cs.flatten ++ rest)
      (transferResponse (respond .ok 0 (construct width seed s))) :=
    hd ▸ accumulates_construct Config.backend seed width (transferResponse (respond .ok 0 s))
  obtain ⟨t, ht, hrest, hrsp⟩ := h.runCommands_writes_sum hlen
  exact ⟨t, (runCommands_cons _ (hx s)).trans ht, hrsp, hrest⟩

/-- Settles O32: each constructor begins an accumulator of the empty stream, every chunk extends the stream, and SUM
answers the digest of the stream held. -/
theorem digestIsAFunctionOfTheStream : Obligations.DigestIsAFunctionOfTheStream := by
  intro seed cs rest s hd hlen p hp
  simp only [List.mem_cons, List.not_mem_nil, or_false] at hp
  rcases hp with rfl | rfl | rfl
  · exact runCommands_construct_writes_sum (width := .w16) (fun _ => rfl) hd hlen
  · exact runCommands_construct_writes_sum (width := .w8) (fun _ => rfl) hd hlen
  · exact runCommands_construct_writes_sum (width := .w4) (fun _ => rfl) hd hlen

/-! ### Seed sensitivity -/

/-- The response of a digest command at width 16 tells the digest (R83). -/
theorem responseWord_digest_injective {F G : Bytes16}
    (h : responseWord .ok (digestBytesPayload 16 F) = responseWord .ok (digestBytesPayload 16 G)) : F = G := by
  have hpl := congrArg rspPayload h
  rw [rspPayload_responseWord, rspPayload_responseWord, digestBytesPayload, digestBytesPayload,
    List.take_of_length_le (by simp), List.take_of_length_le (by simp)] at hpl
  rw [← bytes16Of_packBytes F, hpl, bytes16Of_packBytes]

/-- NEW with a seed, WRITE of the data, SUM: the digest of the data under the seed, for every backend. -/
theorem sum_after_new_and_write (bk : Backend) (seed : U64) {data rest : List Byte} {s : State}
    (hd : s.dataIn = data ++ rest) (hlen : data.length < 2 ^ 64) :
    ∃ t u, writeCommand bk (BitVec.ofNat 64 data.length) (construct .w16 seed s) = .next t ∧
      sumCommand bk t = .next u ∧ u.rspHold = responseWord .ok (digestBytesPayload 16 (digestOf bk seed data)) := by
  have h : Accumulates bk seed .w16 [] (data ++ rest) (construct .w16 seed s) :=
    hd ▸ accumulates_construct bk seed .w16 s
  obtain ⟨t, ht, hacc⟩ := h.writeCommand hlen
  obtain ⟨u, hu, _, hrsp⟩ := hacc.sumCommand
  exact ⟨t, u, ht, hu, hrsp⟩

/-- Settles O34: under the two seeds that the backend tells apart, the responses carry its two digests. -/
theorem blockPassesSeedSensitivityOn : Obligations.BlockPassesSeedSensitivityOn := by
  intro bk hsens data rest s hne hlen hd
  obtain ⟨seed1, seed2, hdiff⟩ := hsens data hne hlen
  obtain ⟨t1, u1, ht1, hu1, hr1⟩ := sum_after_new_and_write bk seed1 hd hlen
  obtain ⟨t2, u2, ht2, hu2, hr2⟩ := sum_after_new_and_write bk seed2 hd hlen
  refine ⟨seed1, seed2, t1, t2, u1, u2, ht1, ht2, hu1, hu2, fun heq => hdiff ?_⟩
  rw [hr1, hr2] at heq
  exact responseWord_digest_injective heq

end Sys2Proof.Machine
end

section
/-! PROOF. What holds no value cannot be observed (R23, R35, R42): two states that agree but for such registers step to
two such states. With an accumulator they differ in the holding registers and the HRESET count alone (`withHolding`);
without one, a command is NEW*, which writes every register that held no value, or an exception, which reads none. -/

namespace Sys2Proof.Machine

variable {s s' t : State}

/-! ### The step, case by case -/

theorem step_of_rst (hr : s.rst = true) : step s = .next (hreset s) := by
  simp [step, blockStep, hr]

theorem step_of_no_word (hr : s.rst = false) (hp : s.phase = .idle) (hc : s.cmdIn = []) : step s = .next s := by
  simp [step, blockStep, hr, hp, hc]

theorem step_of_word {w : CmdWord} {ws : List CmdWord} (hr : s.rst = false) (hp : s.phase = .idle)
    (hc : s.cmdIn = w :: ws) : step s = runWord w { s with cmdIn := ws } := by
  simp [step, blockStep, hr, hp, hc]

theorem step_of_busy (hr : s.rst = false) (hp : s.phase ≠ .idle) : step s = tick Config.backend s := by
  cases hph : s.phase with
  | idle => exact absurd hph hp
  | _ => simp [step, blockStep, hr, hph]

/-- An event while the host is awaited changes nothing (R213, R244). -/
theorem tick_of_waiting (bk : Backend) (h : s.waiting = true) : tick bk s = .next s := by
  simp only [State.waiting, Bool.and_eq_true, Bool.not_eq_true'] at h
  obtain ⟨hr, hw⟩ := h
  cases hp : s.phase with
  | idle =>
    have hc : s.cmdIn = [] := by simpa [hp] using hw
    simp [tick, hr, hp, hc]
  | recv =>
    have hd : s.dataIn = [] := by simpa [hp] using hw
    simp [tick, hr, hp, hd]
  | drain =>
    have hd : s.dataIn = [] := by simpa [hp] using hw
    simp [tick, hr, hp, hd]
  | resp =>
    have hready : s.rspReady = false := by simpa [hp] using hw
    simp [tick, hr, hp, hready]
  | fold => simp [hp] at hw
  | final => simp [hp] at hw

theorem tick_of_resp (bk : Backend) (hr : s.rst = false) (hp : s.phase = .resp) (ha : s.rspReady = true) :
    tick bk s = .next (transferResponse s) := by
  simp [tick, hr, hp, ha]

/-! ### With an accumulator -/

/-- A state with other holding registers and another HRESET count. -/
def withHolding (op : BitVec 8) (rsp : RspWord) (n : Nat) (s : State) : State :=
  { s with opHold := op, rspHold := rsp, hresets := n }

/-- With an accumulator, only the holding registers and the HRESET count may differ. -/
theorem SameButUnspecified.eq_withHolding (h : SameButUnspecified s s') (hv : s.cfgValid = true) :
    s' = withHolding s'.opHold s'.rspHold s'.hresets s := by
  obtain ⟨hcfg, hphase, hrem, hcmd, hdata, hout, hready, hrst, hcalls, harch, hstream, _, _⟩ := h
  obtain ⟨_, hseed, hwidth, hS, hP, hT, hL⟩ := Arch.mk.inj (harch hv)
  have hs := hstream hv
  cases s
  cases s'
  simp only [withHolding, State.mk.injEq, true_and, and_true]
  exact ⟨hcfg.symm, hseed.symm, hwidth.symm, hS.symm, hP.symm, hT.symm, hL.symm, hs.symm, hphase.symm, hrem.symm,
    hcmd.symm, hdata.symm, hout.symm, hready.symm, hrst.symm, hcalls.symm⟩

/-- Outside FINAL `op_hold` is dead (R35). -/
theorem sameButUnspecified_withHolding (hp : t.phase ≠ .final) (op : BitVec 8) (n : Nat) :
    SameButUnspecified t (withHolding op t.rspHold n t) :=
  ⟨rfl, rfl, rfl, rfl, rfl, rfl, rfl, rfl, rfl, fun _ => rfl, fun _ => rfl, fun hf => absurd hf hp, fun _ => rfl⟩

/-- No command reads the holding registers or the HRESET count, and each writes `rsp_hold`. -/
theorem sameButUnspecified_execLegal (i : Instr) (op : BitVec 8) (rsp : RspWord) (n : Nat) (s : State) :
    SameButUnspecified (execLegal i s) (execLegal i (withHolding op rsp n s)) := by
  cases i with
  | write len =>
    by_cases hd : payloadReady len s = true
    · have hd' : payloadReady len (withHolding op rsp n s) = true := hd
      have hframe : writePayload Config.backend len (payloadBytes len s) (takePayload len (withHolding op rsp n s)) =
          withHolding op rsp n (writePayload Config.backend len (payloadBytes len s) (takePayload len s)) := by
        rw [writePayload_frame _ len _ (takePayload len (withHolding op rsp n s)) (takePayload len s) rfl,
          writePayload_frame _ len _ (takePayload len s) (takePayload len s) rfl]
        rfl
      simp only [execLegal, writeLegal, if_pos hd, if_pos hd']
      rw [show payloadBytes len (withHolding op rsp n s) = payloadBytes len s from rfl, hframe]
      exact sameButUnspecified_withHolding (t := respond .ok 0 _) nofun op n
    · have hd' : ¬ payloadReady len (withHolding op rsp n s) = true := hd
      simp only [execLegal, writeLegal, if_neg hd, if_neg hd']
      exact sameButUnspecified_withHolding (t := beginReceive len s) nofun op n
  | _ => exact sameButUnspecified_withHolding (t := execLegal _ s) (by nofun) _ n

/-! ### Without one -/

/-- The tests of R208 read no register that holds no value: the first is for an accumulator. -/
theorem SameButUnspecified.faultOf_eq (h : SameButUnspecified s s') (i : Instr) : faultOf i s' = faultOf i s := by
  cases hv : s.cfgValid with
  | true =>
    rw [h.eq_withHolding hv]
    rfl
  | false =>
    have hv' : s'.cfgValid = false := h.cfgValid ▸ hv
    cases i <;> simp only [faultOf, hv, hv', if_true]

/-- A command's end: its response word is written, whatever was held. -/
theorem SameButUnspecified.respond (h : SameButUnspecified s s') (st : Status) (pl : BitVec 128) :
    SameButUnspecified (respond st pl s) (respond st pl s') :=
  ⟨h.cfgValid, rfl, h.rem, h.cmdIn, h.dataIn, h.rspOut, h.rspReady, h.rst, h.calls, h.arch, h.stream, nofun,
    fun _ => rfl⟩

/-- NEW* writes every register of the architectural state (R100). -/
theorem SameButUnspecified.construct (h : SameButUnspecified s s') (w : Width) (seed : U64) :
    SameButUnspecified (construct w seed s) (construct w seed s') :=
  ⟨rfl, h.phase, h.rem, h.cmdIn, h.dataIn, h.rspOut, h.rspReady, h.rst, h.calls, fun _ => rfl, fun _ => rfl, h.opHold,
    h.rspHold⟩

/-- A word taken off the channel. -/
theorem SameButUnspecified.takeWord (h : SameButUnspecified s s') (ws : List CmdWord) :
    SameButUnspecified { s with cmdIn := ws } { s' with cmdIn := ws } :=
  ⟨h.cfgValid, h.phase, h.rem, rfl, h.dataIn, h.rspOut, h.rspReady, h.rst, h.calls, h.arch, h.stream, h.opHold,
    h.rspHold⟩

/-- A payload taken off the data channel (R61). -/
theorem SameButUnspecified.takePayload (h : SameButUnspecified s s') (len : U64) :
    SameButUnspecified (takePayload len s) (takePayload len s') :=
  ⟨h.cfgValid, h.phase, rfl, h.cmdIn, congrArg (List.drop len.toNat) h.dataIn, h.rspOut, h.rspReady, h.rst, h.calls,
    h.arch, h.stream, h.opHold, h.rspHold⟩

/-- An exception: RESP, or DRAIN for a WRITE short of its payload (R127, R210). -/
theorem SameButUnspecified.execFaulted (h : SameButUnspecified s s') (e : Status) (i : Instr) :
    SameButUnspecified (execFaulted e i s) (execFaulted e i s') := by
  cases i with
  | write len =>
    have hready : payloadReady len s' = payloadReady len s := by rw [payloadReady, payloadReady, h.dataIn]
    simp only [Machine.execFaulted, faultWrite, hready]
    split
    · exact (h.takePayload len).respond e 0
    · exact ⟨h.cfgValid, rfl, rfl, h.cmdIn, h.dataIn, h.rspOut, h.rspReady, h.rst, h.calls, h.arch, h.stream, nofun,
        fun _ => rfl⟩
  | _ => exact h.respond e 0

/-- A command's effect. -/
theorem SameButUnspecified.execLegal (h : SameButUnspecified s s') {i : Instr} (hf : faultOf i s = none) :
    SameButUnspecified (execLegal i s) (execLegal i s') := by
  cases hi : isConstruct i with
  | false =>
    rw [h.eq_withHolding (cfgValid_of_no_fault hf hi)]
    exact sameButUnspecified_execLegal _ _ _ _ _
  | true =>
    cases i with
    | new seed => exact (h.construct .w16 seed).respond .ok 0
    | new64 seed => exact (h.construct .w8 seed).respond .ok 0
    | new32 seed => exact (h.construct .w4 seed).respond .ok 0
    | _ => cases hi

/-- An accepted word: its command's exception or effect, or ILLEGAL (R75, R76). -/
theorem SameButUnspecified.runWord (h : SameButUnspecified s s') {w : CmdWord} (ht : runWord w s = .next t) :
    ∃ t', runWord w s' = .next t' ∧ SameButUnspecified t t' := by
  cases hw : decode w with
  | error why =>
    rw [runWord_of_error s hw] at ht
    cases ht
    exact ⟨_, runWord_of_error s' hw, h.respond .illegal 0⟩
  | ok i =>
    rw [runWord_of_ok s hw] at ht
    rcases exec_cases ht with ⟨e, hf, rfl⟩ | ⟨hf, rfl⟩
    · exact ⟨_, (runWord_of_ok s' hw).trans (exec_of_faultOf ((h.faultOf_eq i).trans hf)), h.execFaulted e i⟩
    · exact ⟨_, (runWord_of_ok s' hw).trans (exec_of_no_fault ((h.faultOf_eq i).trans hf)), h.execLegal hf⟩

/-! ### Events of the sequencer -/

/-- HRESET leaves every one of these registers without a value (R42). -/
theorem SameButUnspecified.hreset (h : SameButUnspecified s s') : SameButUnspecified (hreset s) (hreset s') :=
  ⟨rfl, rfl, rfl, h.cmdIn, h.dataIn, h.rspOut, h.rspReady, h.rst, h.calls, nofun, nofun, nofun, nofun⟩

theorem SameButUnspecified.waiting_eq (h : SameButUnspecified s s') : s'.waiting = s.waiting := by
  rw [State.waiting, State.waiting, h.rst, h.phase, h.cmdIn, h.dataIn, h.rspReady]

theorem drainByte_phase_ne_final (s : State) : (drainByte s).phase ≠ .final := by
  rw [drainByte_phase]
  split <;> nofun

/-- A byte discarded (R127). -/
theorem SameButUnspecified.drainByte (h : SameButUnspecified s s') (hp : s.phase = .drain) (bs : List Byte) :
    SameButUnspecified (drainByte { s with dataIn := bs }) (drainByte { s' with dataIn := bs }) :=
  ⟨h.cfgValid, by simp [h.rem], congrArg (· - 1) h.rem, h.cmdIn, rfl, h.rspOut, h.rspReady, h.rst, h.calls, h.arch,
    h.stream, fun hf => (drainByte_phase_ne_final _ hf).elim, fun _ => h.rspHold (.inr (.inr (.inl hp)))⟩

/-- A response transferred: the response held is the same (R35). -/
theorem SameButUnspecified.transferResponse (h : SameButUnspecified s s') (hp : s.phase = .resp) :
    SameButUnspecified (transferResponse s) (transferResponse s') :=
  ⟨h.cfgValid, rfl, h.rem, h.cmdIn, h.dataIn, by simp [h.rspOut, h.rspHold (.inr (.inr (.inr hp)))], h.rspReady, h.rst,
    h.calls, h.arch, h.stream, nofun, nofun⟩

/-- Out of HRESET and IDLE: an event reads `rsp_hold` in RESP and `op_hold` in FINAL alone, where they hold a value, and
the architectural state only with an accumulator. -/
theorem SameButUnspecified.tick_of_busy {bk : Backend} (h : SameButUnspecified s s')
    (hv : s.phase = .recv ∨ s.phase = .fold ∨ s.phase = .final → s.cfgValid = true) (hr : s.rst = false)
    (hp : s.phase ≠ .idle) (ht : tick bk s = .next t) : ∃ t', tick bk s' = .next t' ∧ SameButUnspecified t t' := by
  have hr' : s'.rst = false := h.rst ▸ hr
  rcases tick_cases ht with ⟨hrst, _⟩ | ⟨hwait, rfl⟩ | ⟨w, ws, _, hidle, _, _⟩ | ⟨b, bs, _, hrecv, hd, rfl⟩ |
    ⟨_, hfold, hP, rfl⟩ | ⟨b, bs, _, hdrain, hd, rfl⟩ | ⟨pl, _, hfin, hs, rfl⟩ | ⟨_, hresp, hready, rfl⟩
  · rw [hr] at hrst
    cases hrst
  · exact ⟨s', tick_of_waiting bk (h.waiting_eq.trans hwait), h⟩
  · exact absurd hidle hp
  · have hheld := h.rspHold (.inl hrecv)
    rw [h.eq_withHolding (hv (.inl hrecv)), ← hheld]
    refine ⟨_, tick_recv bk (s := withHolding _ _ _ s) hr hrecv hd, ?_⟩
    rw [receiveByte_eq, receiveByte_eq]
    refine sameButUnspecified_withHolding ?_ _ _
    dsimp only
    split
    · nofun
    · split <;> simp [hrecv]
  · have hheld := h.rspHold (.inr (.inl hfold))
    rw [h.eq_withHolding (hv (.inr (.inl hfold))), ← hheld]
    refine ⟨_, tick_fold bk (s := withHolding _ _ _ s) hr hfold hP, ?_⟩
    refine sameButUnspecified_withHolding (t := takeMixResult (bk.mix s.S (blockOf s.P)) s) ?_ _ _
    rw [takeMixResult_phase]
    split <;> nofun
  · exact ⟨_, tick_drain bk hr' (h.phase ▸ hdrain) (h.dataIn ▸ hd), h.drainByte hdrain bs⟩
  · have hheld := h.opHold hfin
    rw [h.eq_withHolding (hv (.inr (.inr hfin))), ← hheld]
    exact ⟨_, tick_final bk (s := withHolding _ _ _ s) hr hfin hs,
      sameButUnspecified_withHolding (t := Machine.respond .ok pl s) nofun _ _⟩
  · exact ⟨_, tick_of_resp bk hr' (h.phase ▸ hresp) (h.rspReady ▸ hready), h.transferResponse hresp⟩

/-- Settles O50: HRESET, a word and an event each lead from two such states to two such states. -/
theorem unspecifiedRegistersAreUnobservable : Obligations.UnspecifiedRegistersAreUnobservable := by
  intro s s' t h hv ht
  cases hr : s.rst with
  | true =>
    rw [step_of_rst hr] at ht
    cases ht
    exact ⟨_, step_of_rst (h.rst ▸ hr), h.hreset⟩
  | false =>
    have hr' : s'.rst = false := h.rst ▸ hr
    by_cases hp : s.phase = .idle
    · have hp' : s'.phase = .idle := h.phase ▸ hp
      cases hc : s.cmdIn with
      | nil =>
        rw [step_of_no_word hr hp hc] at ht
        cases ht
        exact ⟨_, step_of_no_word hr' hp' (h.cmdIn ▸ hc), h⟩
      | cons w ws =>
        rw [step_of_word hr hp hc] at ht
        rw [step_of_word hr' hp' (h.cmdIn ▸ hc)]
        exact (h.takeWord ws).runWord ht
    · rw [step_of_busy hr hp] at ht
      rw [step_of_busy hr' (h.phase ▸ hp)]
      exact h.tick_of_busy hv hr hp ht

end Sys2Proof.Machine
end

section
/-! PROOF. Words, payloads and ports: the word taken in IDLE (R60), the two forms of the first digest bytes (R54), and
a backend's answers on its ports (R192, R193). -/

namespace Sys2Proof.Machine

/-- Settles O6: the oldest word is taken off the channel, and it decodes. -/
theorem stepRunsTheDecodedCommand : Obligations.StepRunsTheDecodedCommand := by
  intro s w ws i hr hp hc hw
  rw [step_of_word hr hp hc, runWord_of_ok _ hw]

/-- A sequence that fits in a vector is its little-endian integer, as bits (R54). -/
theorem ofNat_leNat_eq_packBytes {w : Nat} {x : List Byte} (h : 8 * x.length ≤ w) :
    BitVec.ofNat w (leNat x) = packBytes w x := by
  rw [← toNat_packBytes w x h, BitVec.ofNat_toNat, BitVec.setWidth_eq]

/-- Settles O27: the first bytes of a digest fit in a payload, whose two forms are then the same bits. -/
theorem digestIntegerAndByteFormsCoincide : Obligations.DigestIntegerAndByteFormsCoincide := by
  intro k F hk
  have hfits : 8 * (F.toList.take k).length ≤ 128 := by
    rw [List.length_take]
    omega
  exact ofNat_leNat_eq_packBytes hfits

/-- 256 bytes put on a port are read back. -/
theorem bytes256Of_packBytes_toList (v : Bytes256) : bytes256Of (packBytes 2048 v.toList) = v := by
  rw [bytes256Of_packBytes _ v.length_toList, blockOf_toList]

/-- The `Mix` unit answers `Mix` of the state register and the full buffer (R192, R194). -/
theorem answerMix_mixRequestOf (bk : Backend) {s : State} (hP : s.P.length = 256) :
    answerMix bk (mixRequestOf s) = packBytes 2048 (bk.mix s.S (blockOf s.P)).toList := by
  rw [answerMix, mixRequestOf, bytes256Of_packBytes_toList, bytes256Of_packBytes s.P hP]

/-- As many bytes as the count on the port says are read back, for a count that the port can hold (R193). -/
theorem unpackBytes_of_count {c w : Nat} {x : List Byte} (hc : x.length < 2 ^ c) (hw : 8 * x.length ≤ w) :
    unpackBytes (BitVec.ofNat c x.length).toNat (packBytes w x) = x := by
  rw [BitVec.toNat_ofNat, Nat.mod_eq_of_lt hc, unpackBytes_packBytes w x hw]

/-- The `Fin` unit answers `Fin` of the architectural state (R185, R193, R194). -/
theorem answerFin_finRequestOf (bk : Backend) {s : State} (h : s.buffersBounded) :
    answerFin bk (finRequestOf s) = packBytes 128 (finalize bk s).toList := by
  obtain ⟨hP, hT⟩ := h
  have hn : unpackBytes (finRequestOf s).n.toNat (finRequestOf s).partialBlock = s.P :=
    unpackBytes_of_count hP (by omega)
  have htlen : unpackBytes (finRequestOf s).tlen.toNat (finRequestOf s).trailing = s.T :=
    unpackBytes_of_count (by omega) (by omega)
  have hS : bytes256Of (finRequestOf s).state = s.S := bytes256Of_packBytes_toList s.S
  rw [answerFin, hn, htlen, hS]
  rfl

/-- Settles O53: each answer carries the value on its port, from which it is read back. -/
theorem portAnswersAreTheBackendsValues : Obligations.PortAnswersAreTheBackendsValues := by
  intro bk s
  refine ⟨fun hP => ?_, fun hb => ?_⟩
  · rw [answerMix_mixRequestOf bk hP, bytes256Of_packBytes_toList]
  · rw [answerFin_finRequestOf bk hb, bytes16Of_packBytes]

end Sys2Proof.Machine
end

section
/-! PROOF. What a command leaves alone (R57), and what it does not see: payload bytes beyond its own (R61, R242). -/

namespace Sys2Proof.Machine

variable {s t : State} {i : Instr}

/-! ### The architectural state -/

/-- An exception leaves the ghost stream and the record of calls as they are (R210). -/
theorem execFaulted_stream_calls (e : Status) (i : Instr) (s : State) :
    (execFaulted e i s).stream = s.stream ∧ (execFaulted e i s).calls = s.calls := by
  cases i with
  | write len => exact (faultWrite_keeps e len s).2
  | _ => exact ⟨rfl, rfl⟩

/-- A WRITE of no bytes only answers (R120). -/
theorem writeLegal_zero (bk : Backend) (h : s.buffersBounded) :
    writeLegal bk 0 s = respond .ok 0 { s with rem := 0 } := by
  obtain ⟨hP, hT⟩ := h
  have hready : payloadReady 0 s = true := by simp [payloadReady]
  have hq : s.P.length / 256 = 0 := Nat.div_eq_of_lt hP
  rw [writeLegal, if_pos hready, writePayload_eq bk 0 _ (takePayload 0 s) hP]
  simp [payloadBytes, takePayload, hq, foldFrom, foldCalls, lastBytes_of_length_le hT]

/-- The call that a digest command makes is no `Mix` call (R150). -/
theorem mixCalls_answerDigest (bk : Backend) (op : BitVec 8) (shape : Bytes16 → BitVec 128) (s : State) :
    mixCalls (answerDigest bk op shape s).calls = mixCalls s.calls :=
  mixCalls_append s.calls [.fin s.seed s.S s.P s.T s.L]

/-- The effects that keep the architectural state: those of the digests, of the queries and of an empty WRITE. -/
theorem execLegal_keeps (hi : isConstruct i = false) (hreset : i ≠ .reset)
    (hempty : ∀ len, i = .write len → len = 0) (hb : s.buffersBounded) :
    (execLegal i s).arch = s.arch ∧ (execLegal i s).stream = s.stream ∧
      mixCalls (execLegal i s).calls = mixCalls s.calls := by
  cases i with
  | new seed => cases hi
  | new64 seed => cases hi
  | new32 seed => cases hi
  | write len =>
    cases hempty len rfl
    rw [execLegal, writeLegal_zero Config.backend hb]
    exact ⟨rfl, rfl, rfl⟩
  | reset => exact absurd rfl hreset
  | size | blksz => exact ⟨rfl, rfl, rfl⟩
  | sum | sumInto dstLen | sum64 | sum32 => exact ⟨rfl, rfl, mixCalls_answerDigest _ _ _ s⟩

/-- Settles O38: an exception and these effects keep the architectural state, and every command keeps the channels. -/
theorem otherCommandsKeepTheArchitecturalState : Obligations.OtherCommandsKeepTheArchitecturalState := by
  intro i s t hi hreset hb hwrite ht
  obtain ⟨hcmd, hout, hready, hrst, _⟩ := exec_channels i s t ht
  have hkept : t.arch = s.arch ∧ t.stream = s.stream ∧ mixCalls t.calls = mixCalls s.calls := by
    rcases exec_cases ht with ⟨e, _, rfl⟩ | ⟨hf, rfl⟩
    · obtain ⟨hs, hcalls⟩ := execFaulted_stream_calls e i s
      exact ⟨execFaulted_arch e i s, hs, congrArg mixCalls hcalls⟩
    · have hempty : ∀ len, i = .write len → len = 0 := fun len hlen =>
        (hwrite len hlen).resolve_right (by simp [hf])
      exact execLegal_keeps hi hreset hempty hb
  obtain ⟨harch, hs, hcalls⟩ := hkept
  exact ⟨harch, hs, hcmd, hout, hready, hrst, hcalls⟩

/-! ### Bytes beyond the payload -/

/-- The state with more payload bytes presented, behind those already there (R61). -/
def presentBytes (extra : List Byte) (s : State) : State := { s with dataIn := s.dataIn ++ extra }

variable {len : U64} (extra : List Byte)

/-- The payload that is there is the same, and the bytes behind it wait (R61). -/
theorem payloadReady_presentBytes (h : payloadReady len s = true) :
    payloadReady len (presentBytes extra s) = true := by
  have hd : len.toNat ≤ s.dataIn.length := of_decide_eq_true h
  exact decide_eq_true (by rw [presentBytes, List.length_append]; omega)

theorem payloadBytes_presentBytes (h : payloadReady len s = true) :
    payloadBytes len (presentBytes extra s) = payloadBytes len s :=
  List.take_append_of_le_length (of_decide_eq_true h)

theorem takePayload_presentBytes (h : payloadReady len s = true) :
    takePayload len (presentBytes extra s) = presentBytes extra (takePayload len s) := by
  simp only [takePayload, presentBytes, List.drop_append_of_le_length (of_decide_eq_true h : len.toNat ≤ _)]

/-- The five steps of a WRITE do not look at the data channel (R110 to R117). -/
theorem writePayload_presentBytes (bk : Backend) (len : U64) (B : List Byte) (s : State) :
    writePayload bk len B (presentBytes extra s) = presentBytes extra (writePayload bk len B s) := by
  rw [writePayload_frame bk len B (presentBytes extra s) s rfl, writePayload_frame bk len B s s rfl]
  rfl

/-- The tests of R208 do not look at the data channel. -/
theorem faultOf_presentBytes (i : Instr) (s : State) : faultOf i (presentBytes extra s) = faultOf i s := rfl

/-- An exception, with the payload there, drains that payload alone (R127). -/
theorem execFaulted_presentBytes (e : Status) (h : payloadThere i s) :
    execFaulted e i (presentBytes extra s) = presentBytes extra (execFaulted e i s) := by
  cases i with
  | write len =>
    have hready : payloadReady len s = true := decide_eq_true h
    rw [execFaulted, execFaulted, faultWrite, faultWrite, if_pos hready,
      if_pos (payloadReady_presentBytes extra hready), takePayload_presentBytes extra hready]
    rfl
  | _ => rfl

/-- A command's effect, with the payload there, takes that payload alone (R61). -/
theorem execLegal_presentBytes (h : payloadThere i s) :
    execLegal i (presentBytes extra s) = presentBytes extra (execLegal i s) := by
  cases i with
  | write len =>
    have hready : payloadReady len s = true := decide_eq_true h
    rw [execLegal, execLegal, writeLegal, writeLegal, if_pos hready,
      if_pos (payloadReady_presentBytes extra hready), payloadBytes_presentBytes extra hready,
      takePayload_presentBytes extra hready, writePayload_presentBytes]
    rfl
  | _ => rfl

/-- Settles O39: the same tests decide, and the exception or the effect takes the payload alone. -/
theorem surplusBytesWait : Obligations.SurplusBytesWait := by
  intro i s extra h
  obtain ⟨t, ht⟩ := exec_next i s
  refine ⟨t, ht, ?_⟩
  rcases exec_cases ht with ⟨e, hf, rfl⟩ | ⟨hf, rfl⟩
  · have hf' : faultOf i (presentBytes extra s) = some e := (faultOf_presentBytes extra i s).trans hf
    exact (exec_of_faultOf hf').trans (congrArg Host.Outcome.next (execFaulted_presentBytes extra e h))
  · have hf' : faultOf i (presentBytes extra s) = none := (faultOf_presentBytes extra i s).trans hf
    exact (exec_of_no_fault hf').trans (congrArg Host.Outcome.next (execLegal_presentBytes extra h))

end Sys2Proof.Machine
end

section
/-! PROOF. Command words (R72 to R76): the two fields of any word are those of a command, or have an undefined opcode, or
a reserved operand that is not 0; and what the decoder answers in each of these three cases. -/

namespace Sys2Proof

variable {op : BitVec 8} {x : U64} {w : CmdWord} {i : Instr}

/-! ### The decoder, case by case -/

/-- The decoder reads the encoder's tables back (R73, R74). -/
theorem decodeFields_opcodeOf_operandOf (i : Instr) : decodeFields (opcodeOf i) (operandOf i) = .ok i := by
  cases i <;> rfl

theorem decode_encode (i : Instr) : decode (encode i) = .ok i := by
  rw [decode, opcodeField_encode, operandField_encode, decodeFields_opcodeOf_operandOf]

/-- An opcode that is none of the eleven fails every test of the decoder (R76). -/
theorem decodeFields_of_undefined (hfree : op ∉ freeOperandOpcodes) (hres : op ∉ reservedOperandOpcodes) :
    decodeFields op x = .error (.undefinedOpcode op) := by
  simp only [freeOperandOpcodes, reservedOperandOpcodes, List.mem_cons, List.not_mem_nil, or_false, not_or]
    at hfree hres
  obtain ⟨hnew, hnew64, hnew32, hwrite, hsumInto⟩ := hfree
  obtain ⟨hreset, hsum, hsum64, hsum32, hsize, hblksz⟩ := hres
  simp only [decodeFields, if_neg hnew, if_neg hnew64, if_neg hnew32, if_neg hwrite, if_neg hreset, if_neg hsum,
    if_neg hsumInto, if_neg hsum64, if_neg hsum32, if_neg hsize, if_neg hblksz]

/-- A reserved operand that is not 0 (R76). -/
theorem decodeFields_of_reserved (hop : op ∈ reservedOperandOpcodes) (hx : x ≠ 0) :
    decodeFields op x = .error (.reservedOperand op x) := by
  simp only [reservedOperandOpcodes, List.mem_cons, List.not_mem_nil, or_false] at hop
  rcases hop with rfl | rfl | rfl | rfl | rfl | rfl <;> exact if_neg hx

/-! ### The three cases of a word -/

/-- A free operand is an operand of its command, whatever its value (R74). -/
theorem exists_instr_of_free (hop : op ∈ freeOperandOpcodes) (x : U64) :
    ∃ i, opcodeOf i = op ∧ operandOf i = x := by
  simp only [freeOperandOpcodes, List.mem_cons, List.not_mem_nil, or_false] at hop
  rcases hop with rfl | rfl | rfl | rfl | rfl
  · exact ⟨.new x, rfl, rfl⟩
  · exact ⟨.new64 x, rfl, rfl⟩
  · exact ⟨.new32 x, rfl, rfl⟩
  · exact ⟨.write x, rfl, rfl⟩
  · exact ⟨.sumInto x, rfl, rfl⟩

/-- A reserved operand is 0 in its command (R74). -/
theorem exists_instr_of_reserved (hop : op ∈ reservedOperandOpcodes) : ∃ i, opcodeOf i = op ∧ operandOf i = 0 := by
  simp only [reservedOperandOpcodes, List.mem_cons, List.not_mem_nil, or_false] at hop
  rcases hop with rfl | rfl | rfl | rfl | rfl | rfl
  · exact ⟨.reset, rfl, rfl⟩
  · exact ⟨.sum, rfl, rfl⟩
  · exact ⟨.sum64, rfl, rfl⟩
  · exact ⟨.sum32, rfl, rfl⟩
  · exact ⟨.size, rfl, rfl⟩
  · exact ⟨.blksz, rfl, rfl⟩

/-- A word with a command's fields is its word. -/
theorem encode_eq_of_fields (hop : opcodeOf i = CmdWord.opcodeField w) (hx : operandOf i = CmdWord.operandField w) :
    encode i = w := by
  rw [encode, hop, hx, append_fields]

/-- Every word is a command's, or its opcode is undefined, or its reserved operand is not 0 (R75, R76). -/
theorem word_cases (w : CmdWord) :
    (∃ i, encode i = w) ∨
    (CmdWord.opcodeField w ∉ freeOperandOpcodes ∧ CmdWord.opcodeField w ∉ reservedOperandOpcodes) ∨
    (CmdWord.opcodeField w ∈ reservedOperandOpcodes ∧ CmdWord.operandField w ≠ 0) := by
  by_cases hfree : CmdWord.opcodeField w ∈ freeOperandOpcodes
  · obtain ⟨i, hop, hx⟩ := exists_instr_of_free hfree (CmdWord.operandField w)
    exact .inl ⟨i, encode_eq_of_fields hop hx⟩
  · by_cases hres : CmdWord.opcodeField w ∈ reservedOperandOpcodes
    · by_cases h0 : CmdWord.operandField w = 0
      · obtain ⟨i, hop, hx⟩ := exists_instr_of_reserved hres
        exact .inl ⟨i, encode_eq_of_fields hop (hx.trans h0.symm)⟩
      · exact .inr (.inr ⟨hres, h0⟩)
    · exact .inr (.inl ⟨hfree, hres⟩)

/-! ### Well-formed words -/

theorem fields_encode_eq_raw (i : Instr) : CmdWord.fields (encode i) = i.raw := by
  cases i <;> exact fields_encode _ _ rfl rfl

/-- Every command is well formed: a free operand may have any value, a reserved one is 0 (R74). -/
theorem Instr.wf_eq_true (i : Instr) : i.wf = true := by
  cases i <;> rfl

theorem wf_of_undefined (hfree : op ∉ freeOperandOpcodes) (hres : op ∉ reservedOperandOpcodes) :
    (RawCommand.mk op x).wf = false := by
  simp [RawCommand.wf, RawCommand.opcodeDefined, hfree, hres]

theorem wf_of_reserved (hop : op ∈ reservedOperandOpcodes) (hx : x ≠ 0) : (RawCommand.mk op x).wf = false := by
  simpa [RawCommand.wf, RawCommand.reservedZero, hop] using fun _ => hx

/-! ### The obligations -/

/-- Settles O1: the word's fields are the encoder's, which the decoder reads back. -/
theorem decodeOfEncode : Obligations.DecodeOfEncode := fun i _ => decode_encode i

/-- Settles O2: a word that decodes is a command's word, which decodes to that command alone. -/
theorem encodeOfDecode : Obligations.EncodeOfDecode := by
  intro w i hw
  rcases word_cases w with ⟨j, rfl⟩ | ⟨hfree, hres⟩ | ⟨hop, hx⟩
  · rw [decode_encode] at hw
    cases hw
    rfl
  · rw [decode, decodeFields_of_undefined hfree hres] at hw
    cases hw
  · rw [decode, decodeFields_of_reserved hop hx] at hw
    cases hw

/-- Settles O3: in each of the three cases of a word the decoder and the lists of WellFormed agree. -/
theorem illegalExactlyWhenNotWellFormed : Obligations.IllegalExactlyWhenNotWellFormed := by
  intro w
  rcases word_cases w with ⟨i, rfl⟩ | ⟨hfree, hres⟩ | ⟨hop, hx⟩
  · have hwf : i.raw.wf = true := i.wf_eq_true
    simp [decode_encode, fields_encode_eq_raw, hwf]
  · exact iff_of_true ⟨_, decodeFields_of_undefined hfree hres⟩ (wf_of_undefined hfree hres)
  · exact iff_of_true ⟨_, decodeFields_of_reserved hop hx⟩ (wf_of_reserved hop hx)

end Sys2Proof
end

section
/-! PROOF. What a ready word does in its one step (R60, R75, R80): an illegal word's answer, and the response, the payload
and the channels of a command whose payload is there. -/

namespace Sys2Proof.Machine

variable {s : State} {w : CmdWord} {ws : List CmdWord} {i : Instr}

/-! ### Response words, illegal words -/

/-- Settles O5: the two fields are read back from the word, and the codes are R81's. -/
theorem responseWordFields : Obligations.ResponseWordFields :=
  ⟨fun st pl => ⟨rspStatus_responseWord st pl, rspPayload_responseWord st pl⟩, rfl, rfl, rfl, rfl, rfl, rfl⟩

/-- Settles O7: an illegal word's step raises ILLEGAL, and the opcodes named are those of R75 and R76. -/
theorem illegalWordIsAnswered : Obligations.IllegalWordIsAnswered := by
  refine ⟨fun s w ws why hr hp hc hw => ?_, fun w hop => ?_, fun w hop hx => ?_⟩
  · rw [step_of_word hr hp hc, runWord_of_error _ hw]
    rfl
  · have hall : freeOperandOpcodes ++ reservedOperandOpcodes ⊆
        [0x10, 0x11, 0x12, 0x20, 0x21, 0x30, 0x31, 0x32, 0x33, 0x40, 0x41] := by decide
    exact ⟨_, decodeFields_of_undefined (fun hfree => hop (hall (List.mem_append_left _ hfree)))
      (fun hres => hop (hall (List.mem_append_right _ hres)))⟩
  · exact ⟨_, decodeFields_of_reserved hop hx⟩

/-! ### A command whose payload is there -/

/-- An exception is answered, and takes the payload of a WRITE (R127, R210). -/
theorem execFaulted_eq_respond (e : Status) (h : payloadThere i s) :
    ∃ u, execFaulted e i s = respond e 0 u ∧ u.dataIn = s.dataIn.drop i.payloadLength := by
  cases i with
  | write len =>
    have hready : payloadReady len s = true := decide_eq_true h
    exact ⟨takePayload len s, if_pos hready, rfl⟩
  | _ => exact ⟨s, rfl, rfl⟩

/-- A command that no test stops is answered with OK, and takes the payload of a WRITE (R61, R209). -/
theorem execLegal_eq_respond (h : payloadThere i s) :
    ∃ pl u, execLegal i s = respond .ok pl u ∧ u.dataIn = s.dataIn.drop i.payloadLength := by
  cases i with
  | write len =>
    have hready : payloadReady len s = true := decide_eq_true h
    refine ⟨0, _, if_pos hready, ?_⟩
    rw [writePayload_frame _ len _ (takePayload len s) (takePayload len s) rfl]
    rfl
  | _ => exact ⟨_, _, rfl, rfl⟩

/-- Settles O37: without an exception a command has its effect, which is answered with OK. -/
theorem unfaultedCommandsSucceed : Obligations.UnfaultedCommandsSucceed := by
  intro i s hf hd
  obtain ⟨pl, u, ht, _⟩ := execLegal_eq_respond hd
  refine ⟨respond .ok pl u, (exec_of_no_fault hf).trans (congrArg Host.Outcome.next ht), rfl, ?_⟩
  exact rspStatus_responseWord .ok pl

/-- A command is answered in one step, with the payload taken that it announces. -/
theorem exec_eq_respond (h : payloadThere i s) :
    ∃ st pl u, exec i s = .next (respond st pl u) ∧ u.dataIn = s.dataIn.drop i.payloadLength := by
  cases hf : faultOf i s with
  | some e =>
    obtain ⟨u, ht, hd⟩ := execFaulted_eq_respond e h
    exact ⟨e, 0, u, (exec_of_faultOf hf).trans (congrArg Host.Outcome.next ht), hd⟩
  | none =>
    obtain ⟨pl, u, ht, hd⟩ := execLegal_eq_respond h
    exact ⟨.ok, pl, u, (exec_of_no_fault hf).trans (congrArg Host.Outcome.next ht), hd⟩

/-! ### A ready word -/

/-- How many payload bytes a word takes: a command's own, and none for an illegal word (R76, R82). -/
def wordPayloadLength (w : CmdWord) : Nat :=
  match decode w with
  | .ok i    => i.payloadLength
  | .error _ => 0

/-- A word whose payload is there is answered in one step, which takes that payload and touches no other channel. -/
theorem runWord_answers (h : ∀ i, decode w = .ok i → payloadThere i s) :
    ∃ t, runWord w s = .next t ∧ t.phase = .resp ∧ t.dataIn = s.dataIn.drop (wordPayloadLength w) ∧
      SameChannels s t := by
  unfold wordPayloadLength
  cases hw : decode w with
  | error why => exact ⟨_, runWord_of_error s hw, rfl, rfl, rfl, rfl, rfl, rfl, rfl⟩
  | ok i =>
    obtain ⟨st, pl, u, ht, hd⟩ := exec_eq_respond (h i hw)
    exact ⟨_, (runWord_of_ok s hw).trans ht, rfl, hd, exec_channels i s _ ht⟩

/-- Settles O10: the first step answers the word, and the second transfers the response that it holds. -/
theorem oneResponsePerCommand : Obligations.OneResponsePerCommand := by
  intro s w ws h hready
  have hd : ∀ i, decode w = .ok i → payloadThere i s := fun _ => payloadThere_of_readyFor h
  obtain ⟨t, ht, hp, hdata, hcmd, hout, hrr, hrst, _⟩ := runWord_answers (s := { s with cmdIn := ws }) hd
  have hbusy : t.phase ≠ .idle := by simp [hp]
  have hr : t.rst = false := hrst.trans h.1
  have hu : step t = .next (transferResponse t) :=
    (step_of_busy hr hbusy).trans (tick_of_resp _ hr hp (hrr.trans hready))
  refine ⟨t, transferResponse t, (step_of_readyFor h).trans ht, hp, hout, hcmd, hdata, hu, rfl, ?_, hcmd, rfl, rfl⟩
  rw [transferResponse_rspOut, hout]

end Sys2Proof.Machine
end

section
/-! PROOF. What the digest commands return (R150 to R159): the payload's bytes or its integer, and the state around it. -/

namespace Sys2Proof.Machine

variable {s : State}

/-! ### Payloads -/

/-- Byte `i` of a digest payload of `k` bytes (R83). -/
theorem byteAt_digestBytesPayload (k : Nat) (F : Bytes16) (i : Fin 16) :
    byteAt (digestBytesPayload k F) i.val = if i.val < k then F[i] else 0 := by
  have hfits : 8 * (F.toList.take k).length ≤ 128 := by simp; omega
  rw [digestBytesPayload, byteAt_packBytes 128 _ i.val hfits]
  split <;> simp [*, List.getD_eq_getElem?_getD]

/-- The integer of up to 16 digest bytes fits in the payload (R54, R83). -/
theorem toNat_digestIntPayload {k : Nat} (hk : k ≤ 16) (F : Bytes16) :
    (digestIntPayload k F).toNat = leNat (F.toList.take k) := by
  rw [digestIntegerAndByteFormsCoincide k F hk]
  exact toNat_packBytes 128 _ (by rw [List.length_take]; omega)

/-- The 16 bytes of a full digest payload are read back. -/
theorem unpackBytes_digestBytesPayload (F : Bytes16) : unpackBytes 16 (digestBytesPayload 16 F) = F.toList := by
  have hlen : F.toList.length = 16 := F.length_toList
  have h := unpackBytes_packBytes 128 F.toList (by rw [hlen])
  rw [hlen] at h
  rwa [digestBytesPayload, List.take_of_length_le (le_of_eq hlen)]

/-! ### The commands, with an accumulator of a width that they accept -/

theorem exec_sum (hv : s.cfgValid = true) :
    exec .sum s = .next (answerDigest Config.backend 0x30 (digestBytesPayload (widthBytes s.width)) s) :=
  exec_of_no_fault (by simp [faultOf, hv])

theorem exec_sumInto_of_w16 (hv : s.cfgValid = true) (hw : s.width = .w16) :
    exec (.sumInto 16) s = .next (answerDigest Config.backend 0x31 (digestBytesPayload 16) s) :=
  exec_of_no_fault (by simp [faultOf, hv, dstLenBad, sumIntoWidthBad, hw, widthBytes])

theorem sum64WidthBad_eq_false (hw : s.width ≠ .w4) : sum64WidthBad s = false := by
  cases h : s.width with
  | w4 => exact absurd h hw
  | w8 | w16 => simp [sum64WidthBad, h, widthBytes]

theorem exec_sum64 (hv : s.cfgValid = true) (hw : s.width ≠ .w4) :
    exec .sum64 s = .next (answerDigest Config.backend 0x32 (digestIntPayload 8) s) :=
  exec_of_no_fault (by simp [faultOf, hv, sum64WidthBad_eq_false hw])

theorem exec_sum32 (hv : s.cfgValid = true) :
    exec .sum32 s = .next (answerDigest Config.backend 0x33 (digestIntPayload 4) s) :=
  exec_of_no_fault (by simp [faultOf, hv])

/-! ### The obligations -/

/-- Settles O23: the payload's bytes are the digest's, cut to the width. -/
theorem sumReturnsTheDigest : Obligations.SumReturnsTheDigest := fun s hv =>
  ⟨_, exec_sum hv, byteAt_digestBytesPayload (widthBytes s.width) (finalize Config.backend s)⟩

/-- Settles O24: the cut at 16 bytes takes nothing away. -/
theorem sumIntoReturnsTheFullDigest : Obligations.SumIntoReturnsTheFullDigest := fun s hv hw =>
  ⟨_, exec_sumInto_of_w16 hv hw, fun i =>
    (byteAt_digestBytesPayload 16 (finalize Config.backend s) i).trans (if_pos i.isLt)⟩

/-- Settles O25: the payload is the integer of 8 bytes. -/
theorem sum64ReturnsEightBytes : Obligations.Sum64ReturnsEightBytes := fun s hv hw =>
  ⟨_, exec_sum64 hv hw, toNat_digestIntPayload (by decide) (finalize Config.backend s)⟩

/-- Settles O26: the payload is the integer of 4 bytes. -/
theorem sum32ReturnsFourBytes : Obligations.Sum32ReturnsFourBytes := fun s hv =>
  ⟨_, exec_sum32 hv, toNat_digestIntPayload (by decide) (finalize Config.backend s)⟩

end Sys2Proof.Machine
end

section
/-! PROOF. The host's lines (R90 to R93): what they present, and what the one-shot pseudo-instructions return. -/

namespace Sys2Proof.Machine

variable {s : State}

/-! ### What lines present -/

theorem hostActs_append (as bs : List HostAction) (s : State) :
    hostActs (as ++ bs) s = hostActs bs (hostActs as s) := List.foldl_append

/-- Bytes presented one after another stand behind those presented before (R61). -/
theorem hostActs_sendBytes (bs : List Byte) (s : State) :
    hostActs (bs.map .sendByte) s = { s with dataIn := s.dataIn ++ bs } := by
  induction bs generalizing s with
  | nil => simp [hostActs]
  | cons b bs ih =>
    refine (ih (hostAct (.sendByte b) s)).trans ?_
    simp [hostAct]

/-- One line presents its word and its bytes. -/
theorem hostActs_actions (l : AsmLine) (s : State) :
    hostActs l.actions s = { s with cmdIn := s.cmdIn ++ [l.encoded], dataIn := s.dataIn ++ l.bytes } :=
  hostActs_sendBytes l.bytes (hostAct (.sendCommand l.encoded) s)

/-- A program presents the words of its lines, and their bytes, in order. -/
theorem presentLines_eq (ls : List AsmLine) (s : State) :
    presentLines ls s = { s with
      cmdIn := s.cmdIn ++ ls.map AsmLine.encoded, dataIn := s.dataIn ++ ls.flatMap AsmLine.bytes } := by
  induction ls generalizing s with
  | nil => simp [presentLines, hostActs]
  | cons l ls ih =>
    rw [presentLines, List.flatMap_cons, hostActs_append, hostActs_actions]
    refine (ih _).trans ?_
    simp

/-- Settles O4: the encoder gives the twelve words, which then decode to their commands. -/
theorem workedEncodingsDecode : Obligations.WorkedEncodingsDecode := by
  refine ⟨fun p hp => ?_, decodeFields_of_reserved (by decide) (by decide), fun s => presentLines_eq _ s⟩
  have hword : encode p.1 = p.2 := by
    revert p
    decide
  exact ⟨hword, hword ▸ decode_encode p.1⟩

/-! ### The one-shot pseudo-instructions -/

/-- A one-shot digest (R92): a constructor, one WRITE of the data, and a digest command that answers with some shape of
the digest. -/
theorem runCommands_oneShot {x d : Instr} {width : Width} {seed : U64} {op : BitVec 8} {shape : Bytes16 → BitVec 128}
    (hx : ∀ s, exec x s = .next (respond .ok 0 (construct width seed s)))
    (hd : ∀ s, s.cfgValid = true → s.width = width → exec d s = .next (answerDigest Config.backend op shape s))
    {data rest : List Byte} (hdata : s.dataIn = data ++ rest) (hlen : data.length < 2 ^ 64) :
    ∃ t, runCommands [x, writeOf data, d] s = .next t ∧
      rspPayload t.rspHold = shape (digestOf Config.backend seed data) := by
  have hnew : Accumulates Config.backend seed width [] (data ++ rest)
      (transferResponse (respond .ok 0 (construct width seed s))) :=
    hdata ▸ accumulates_construct Config.backend seed width (transferResponse (respond .ok 0 s))
  obtain ⟨t, ht, hacc⟩ := hnew.writeCommand hlen
  have hwrite : exec (writeOf data) (transferResponse (respond .ok 0 (construct width seed s))) = .next t := ht
  obtain ⟨hv, hseed, hwidth, hstream, _, hholds⟩ := hacc.transferResponse
  have hrun : runCommands [x, writeOf data, d] s = .next (transferResponse
      (answerDigest Config.backend op shape (transferResponse t))) := by
    rw [runCommands_cons _ (hx s), runCommands_cons _ hwrite, runCommands_cons _ (hd _ hv hwidth)]
    rfl
  refine ⟨_, hrun, (rspPayload_responseWord .ok _).trans ?_⟩
  rw [hholds.finalize_eq, hseed, hstream, List.nil_append]

/-- Settles O33: the lines present their words and the data, and each of the three programs is a one-shot digest. -/
theorem oneShotPseudoInstructions : Obligations.OneShotPseudoInstructions := by
  refine ⟨fun seed data s => ?_, fun seed data rest s hdata hlen => ?_⟩
  · simp only [presentLines_eq]
    simp [checksumLines, checksum64Lines, checksum32Lines, writeLine, writeOf, AsmLine.encoded, AsmLine.bytes]
  · obtain ⟨t, ht, htp⟩ := runCommands_oneShot (x := .new seed) (d := .sum) (width := .w16) (fun _ => rfl)
      (fun s hv hw => hw ▸ exec_sum hv) hdata hlen
    obtain ⟨u, hu, hup⟩ := runCommands_oneShot (x := .new64 seed) (d := .sum64) (width := .w8) (fun _ => rfl)
      (fun s hv hw => exec_sum64 hv (by simp [hw])) hdata hlen
    obtain ⟨v, hv, hvp⟩ := runCommands_oneShot (x := .new32 seed) (d := .sum32) (width := .w4) (fun _ => rfl)
      (fun s hv _ => exec_sum32 hv) hdata hlen
    refine ⟨t, u, v, ht, hu, hv, ?_, ?_, ?_⟩
    · rw [htp]
      exact unpackBytes_digestBytesPayload _
    · rw [hup, toNat_digestIntPayload (by decide)]
    · rw [hvp, toNat_digestIntPayload (by decide)]

end Sys2Proof.Machine
end

section
/-! PROOF. Events and edges (R70, R71, R192 to R194): what is ready and valid in each phase, what leaves the channels at an
edge, and that an event is the edge which the channels and the backend drive. -/

namespace Sys2Proof.Machine

variable {s : State}

/-- Settles O51: each output tests the phase. -/
theorem readyAndValidFollowThePhase : Obligations.ReadyAndValidFollowThePhase := by
  intro s
  cases hp : s.phase <;> simp [outputs, hp]

/-! ### What has left the channels -/

theorem afterTransfers_of_not_ready (hc : (outputs s.rst s).cmdReady = false) (hd : (outputs s.rst s).wdReady = false) :
    afterTransfers s = s := by
  simp [afterTransfers, hc, hd]

theorem afterTransfers_of_idle (hr : s.rst = false) (hp : s.phase = .idle) :
    afterTransfers s = { s with cmdIn := s.cmdIn.tail } := by
  simp [afterTransfers, outputs, hr, hp]

theorem afterTransfers_of_payload (hr : s.rst = false) (hp : s.phase = .recv ∨ s.phase = .drain) :
    afterTransfers s = { s with dataIn := s.dataIn.tail } := by
  rcases hp with hp | hp <;> simp [afterTransfers, outputs, hr, hp]

theorem afterTransfers_of_other (hp : s.phase = .fold ∨ s.phase = .final ∨ s.phase = .resp) :
    afterTransfers s = s := by
  rcases hp with hp | hp | hp <;> exact afterTransfers_of_not_ready (by simp [outputs, hp]) (by simp [outputs, hp])

/-- With nothing presented nothing leaves the channel (R213). -/
theorem afterTransfers_of_no_word (hr : s.rst = false) (hp : s.phase = .idle) (hc : s.cmdIn = []) :
    afterTransfers s = s := by
  rw [afterTransfers_of_idle hr hp, hc, List.tail_nil, ← hc]

theorem afterTransfers_of_no_byte (hr : s.rst = false) (hp : s.phase = .recv ∨ s.phase = .drain)
    (hd : s.dataIn = []) : afterTransfers s = s := by
  rw [afterTransfers_of_payload hr hp, hd, List.tail_nil, ← hd]

/-! ### The driven edge -/

theorem drivePins_mixRsp (bk : Backend) (hr : s.rst = false) (hp : s.phase = .fold) :
    (drivePins bk s).mixRsp = some (answerMix bk (mixRequestOf s)) := by
  simp [drivePins, outputs, hr, hp]

theorem drivePins_finRsp (bk : Backend) (hr : s.rst = false) (hp : s.phase = .final) :
    (drivePins bk s).finRsp = some (answerFin bk (finRequestOf s)) := by
  simp [drivePins, outputs, hr, hp]

/-- In IDLE the event and the edge take the word presented, if there is one. -/
theorem tick_eq_edge_of_idle (bk : Backend) (hr : s.rst = false) (hp : s.phase = .idle) :
    tick bk s = edge (drivePins bk s) (afterTransfers s) := by
  cases hc : s.cmdIn with
  | nil =>
    rw [afterTransfers_of_no_word hr hp hc]
    simp [tick, edge, drivePins, hr, hp, hc]
  | cons w ws => simp [tick, edge, drivePins, afterTransfers_of_idle hr hp, hr, hp, hc]

/-- In RECV and DRAIN they take the byte presented, if there is one. -/
theorem tick_eq_edge_of_payload (bk : Backend) (hr : s.rst = false) (hp : s.phase = .recv ∨ s.phase = .drain) :
    tick bk s = edge (drivePins bk s) (afterTransfers s) := by
  cases hd : s.dataIn with
  | nil =>
    rw [afterTransfers_of_no_byte hr hp hd]
    rcases hp with hp | hp <;> simp [tick, edge, drivePins, hr, hp, hd]
  | cons b bs =>
    rw [afterTransfers_of_payload hr hp]
    rcases hp with hp | hp <;> simp [tick, edge, drivePins, hr, hp, hd]

/-- In FOLD they take one result, or stop, as the buffer is full or not. -/
theorem tick_eq_edge_of_fold (bk : Backend) (hr : s.rst = false) (hp : s.phase = .fold) :
    tick bk s = edge (drivePins bk s) s := by
  have hrst : (drivePins bk s).rst = false := hr
  by_cases hP : s.P.length = 256
  · have hmix := (portAnswersAreTheBackendsValues bk s).1 hP
    simp [tick, edge, hrst, hr, hp, hP, drivePins_mixRsp bk hr hp, hmix]
  · simp [tick, edge, hrst, hr, hp, hP]

/-- In FINAL they take one result, of which the ports carry every valid byte (R193). -/
theorem tick_eq_edge_of_final (bk : Backend) (hr : s.rst = false) (hp : s.phase = .final) (hb : s.buffersBounded) :
    tick bk s = edge (drivePins bk s) s := by
  have hrst : (drivePins bk s).rst = false := hr
  have hfin := (portAnswersAreTheBackendsValues bk s).2 hb
  simp [tick, edge, hrst, hr, hp, drivePins_finRsp bk hr hp, hfin]

/-- Settles O54, phase by phase: the pins carry what the event takes off its channel, or the backend's value. -/
theorem eventIsTheDrivenEdge : Obligations.EventIsTheDrivenEdge := by
  intro bk s hb
  cases hr : s.rst with
  | true =>
    rw [afterTransfers_of_not_ready (by simp [outputs, hr]) (by simp [outputs, hr])]
    simp [tick, edge, drivePins, hr]
  | false =>
    cases hp : s.phase with
    | idle => exact tick_eq_edge_of_idle bk hr hp
    | recv => exact tick_eq_edge_of_payload bk hr (.inl hp)
    | drain => exact tick_eq_edge_of_payload bk hr (.inr hp)
    | fold => rw [afterTransfers_of_other (.inl hp), tick_eq_edge_of_fold bk hr hp]
    | final => rw [afterTransfers_of_other (.inr (.inl hp)), tick_eq_edge_of_final bk hr hp (hb hp)]
    | resp =>
      rw [afterTransfers_of_other (.inr (.inr hp))]
      simp [tick, edge, drivePins, hr, hp]

end Sys2Proof.Machine
end

section
/-! PROOF. The construction commands, which no test stops (R100, R102), and the transfer of the response that ends a
command (R104, R125). -/

namespace Sys2Proof.Machine

/-- Settles O11: none of the three faults, and the effect is `construct` at the command's width, answered with OK. -/
theorem newConstructs : Obligations.NewConstructs := by
  intro seed s
  refine ⟨?new, ?new64, ?new32⟩
  case new => exact exec_of_no_fault (i := .new seed) rfl
  case new64 => exact exec_of_no_fault (i := .new64 seed) rfl
  case new32 => exact exec_of_no_fault (i := .new32 seed) rfl

/-- Out of HRESET, the step in RESP is the sequencer's event. -/
theorem step_of_resp {s : State} (hr : s.rst = false) (hp : s.phase = .resp) : step s = tick Config.backend s :=
  step_of_busy hr (by simp [hp])

/-- Settles O9: an accepted response is transferred (R125), and the block waits for the host to accept it (R244). -/
theorem responseTransfer : Obligations.ResponseTransfer := by
  refine ⟨fun s hr hp hready => ?accepted, fun s hr hp hready => ?held⟩
  case accepted => exact (step_of_resp hr hp).trans (tick_of_resp _ hr hp hready)
  case held =>
    have hwait : s.waiting = true := by simp [State.waiting, hr, hp, hready]
    exact (step_of_resp hr hp).trans (tick_of_waiting _ hwait)

end Sys2Proof.Machine
end

section
/-! PROOF. Every event of the sequencer keeps the invariant (R119, R124, R125): the acceptance of a word, which the
operation level does not know, beside the events that follow it. -/

namespace Sys2Proof.Machine

variable {bk : Backend} {s t : State}

/-- In FINAL: the datapath as at rest, an accumulator, and one of the four digest opcodes held (R163). -/
theorem AtRest.inv_of_final (h : AtRest bk s) (hp : s.phase = .final) (hv : s.cfgValid = true)
    (hop : (shapeDigest s.opHold s.width (finalize bk s)).isSome) : Inv bk s where
  bufferFull hf := by simp [hp] at hf
  bufferNotFull _ := h.bounded.1
  windowBound := h.bounded.2
  remZero _ := h.remZero
  remNotZero hr := by simp [hp] at hr
  constructed _ := hv
  digestHeld _ := hop
  datapath hv := (datapathInv_iff_of_not_receiving (by simp [hp]) (by simp [hp])).mpr (h.holds hv)

/-- A digest command accepted: its `Fin` call is issued, and changes no architectural state (R150, R163). -/
theorem AtRest.inv_acceptDigest (h : AtRest bk s) (hv : s.cfgValid = true) {op : BitVec 8}
    (hop : ∀ F, (shapeDigest op s.width F).isSome) : Inv bk (acceptDigest op s) :=
  (h.of_eq (t := acceptDigest op s) rfl rfl h.remZero).inv_of_final rfl hv (hop _)

/-- A command that faults is accepted: RESP, or DRAIN for a WRITE that announces payload (R125, R127). -/
theorem AtRest.inv_acceptFaulted (h : AtRest bk s) (e : Status) (i : Instr) : Inv bk (acceptFaulted e i s) := by
  cases i with
  | write len =>
    rw [acceptFaulted_write]
    by_cases h0 : len = 0
    · exact AtRest.inv ⟨h0, h.bounded, fun hv => (h.holds hv).of_eq rfl rfl⟩ (.inr (if_pos h0))
    · exact inv_of_drain (if_neg h0) h0 h.bounded fun hv => (h.holds hv).of_eq rfl rfl
  | _ => exact h.inv_respond e 0

/-- A WRITE that no test stops is accepted: `L` counts its bytes, which RECV awaits; with none to come the command ends
(R120, R125). -/
theorem AtRest.inv_acceptLegal_write (h : AtRest bk s) {len : U64} (hv : s.cfgValid = true)
    (hL : ¬ lenOverflows s len = true) : Inv bk (acceptLegal (.write len) s) := by
  have hs : HoldsStream bk (s.stream.length / 256) len.toNat (acceptLegal (.write len) s) := by
    rw [acceptLegal_write]
    exact ((h.holds hv).beginReceive hL).of_eq rfl rfl
  rw [acceptLegal_write] at hs ⊢
  by_cases h0 : len = 0
  · exact ((hs.whole (by rw [h0]; rfl) h.bounded.1).atRest h0).inv (.inr (if_pos h0))
  · exact inv_of_recv (if_neg h0) hv h0 h.bounded.1 hs

/-- A command that no test stops is accepted: RESP, RECV for a WRITE, FINAL for a digest (R104, R125, R142, R173). -/
theorem AtRest.inv_acceptLegal {i : Instr} (h : AtRest bk s) (hf : faultOf i s = none) :
    Inv bk (acceptLegal i s) := by
  cases i with
  | new seed => exact h.inv_respond_cleared (t := construct .w16 seed s) rfl rfl rfl rfl rfl rfl
  | new64 seed => exact h.inv_respond_cleared (t := construct .w8 seed s) rfl rfl rfl rfl rfl rfl
  | new32 seed => exact h.inv_respond_cleared (t := construct .w4 seed s) rfl rfl rfl rfl rfl rfl
  | write len =>
    obtain ⟨hv, hL⟩ := faultOf_write_eq_none hf
    exact h.inv_acceptLegal_write hv hL
  | reset => exact h.inv_respond_cleared (t := clearDatapath s) rfl rfl rfl rfl rfl rfl
  | size | blksz => exact h.inv_respond .ok _
  | sum | sumInto dstLen | sum64 | sum32 =>
    exact h.inv_acceptDigest (valid_of_no_fault hf).1 fun _ => rfl

/-- A word is accepted (R76, R125): ILLEGAL, an exception, or the beginning of a command. -/
theorem AtRest.inv_acceptWord (h : AtRest bk s) (w : CmdWord) : Inv bk (acceptWord w s) := by
  rcases acceptWord_cases w s with ⟨_, _, ha⟩ | ⟨i, e, _, _, ha⟩ | ⟨i, _, hf, ha⟩ <;> rw [ha]
  · exact h.inv_respond .illegal 0
  · exact h.inv_acceptFaulted e i
  · exact h.inv_acceptLegal hf

/-- Settles O45: in IDLE an event is HRESET, waiting, or a word accepted from a state at rest; in every other phase it
does what the step does. -/
theorem eventsKeepTheInvariant : Obligations.EventsKeepTheInvariant := by
  intro bk s t h ht
  by_cases hp : s.phase = .idle
  · rcases tick_cases ht with ⟨_, rfl⟩ | ⟨_, rfl⟩ | ⟨w, ws, _, _, _, rfl⟩ | ⟨_, _, _, hq, _⟩ | ⟨_, hq, _⟩ |
      ⟨_, _, _, hq, _⟩ | ⟨_, _, hq, _⟩ | ⟨_, hq, _⟩
    · exact inv_hreset bk s
    · exact h
    · exact ((h.present ws s.dataIn).atRest (.inl hp)).inv_acceptWord w
    all_goals rw [hp] at hq; cases hq
  · exact h.tick_of_busy hp ht

end Sys2Proof.Machine
end

section
/-! PROOF. Which steps change nothing (R128, R213, R244): those of a block that waits for the host, and no other. -/

namespace Sys2Proof.Machine

variable {bk : Backend} {s t : State}

theorem receiveByte_dataIn (b : Byte) (s : State) : (receiveByte b s).dataIn = s.dataIn := by
  rw [receiveByte_eq]

/-- A `Mix` result ends FOLD (R125). -/
theorem takeMixResult_phase_ne_fold (r : Bytes256) (s : State) : (takeMixResult r s).phase ≠ .fold := by
  rw [takeMixResult_phase]
  split <;> nofun

/-- The count of HRESET edges tells the state after one from the state before it. -/
theorem hreset_ne_self (s : State) : hreset s ≠ s := fun h => Nat.succ_ne_self _ (congrArg State.hresets h)

/-- A word leaves those presented behind it (R60). -/
theorem runWord_cmdIn {w : CmdWord} (h : runWord w s = .next t) : t.cmdIn = s.cmdIn := by
  cases hw : decode w with
  | ok i =>
    rw [runWord_of_ok s hw] at h
    exact (exec_channels i s t h).1
  | error why =>
    rw [runWord_of_error s hw] at h
    cases h
    rfl

/-- A step while the host is awaited changes nothing (R128, R213, R244). -/
theorem step_of_waiting (h : s.waiting = true) : step s = .next s := by
  have hr : s.rst = false := by simpa using (Bool.and_eq_true_iff.mp h).1
  by_cases hp : s.phase = .idle
  · exact step_of_no_word hr hp (by simpa [State.waiting, hr, hp] using h)
  · exact (step_of_busy hr hp).trans (tick_of_waiting _ h)

/-- Out of IDLE an event that changes nothing awaits the host: every other takes a byte, leaves the phase, or counts an
HRESET (R125, R230). -/
theorem waiting_of_tick_eq_self (h : tick bk s = .next s) (hp : s.phase ≠ .idle) : s.waiting = true := by
  rcases tick_cases h with ⟨_, e⟩ | ⟨hwait, _⟩ | ⟨_, _, _, hidle, _, _⟩ | ⟨b, bs, _, _, hd, e⟩ | ⟨_, hfold, _, e⟩ |
    ⟨b, bs, _, _, hd, e⟩ | ⟨pl, _, hfin, _, e⟩ | ⟨_, hresp, _, e⟩
  · exact absurd e.symm (hreset_ne_self s)
  · exact hwait
  · exact absurd hidle hp
  · have hsame := (congrArg State.dataIn e).trans (receiveByte_dataIn b _)
    exact absurd (hd.symm.trans hsame) (List.cons_ne_self b bs)
  · exact absurd (congrArg State.phase e ▸ hfold) (takeMixResult_phase_ne_fold _ s)
  · exact absurd (hd.symm.trans (congrArg State.dataIn e)) (List.cons_ne_self b bs)
  · exact absurd (hfin.symm.trans (congrArg State.phase e)) nofun
  · exact absurd (hresp.symm.trans (congrArg State.phase e)) nofun

/-- In IDLE likewise: with a word presented the step takes it off the channel (R60). -/
theorem waiting_of_step_eq_self_of_idle (h : step s = .next s) (hr : s.rst = false) (hp : s.phase = .idle) :
    s.waiting = true := by
  cases hc : s.cmdIn with
  | nil => simp [State.waiting, hr, hp, hc]
  | cons w ws =>
    rw [step_of_word hr hp hc] at h
    exact absurd (hc.symm.trans (runWord_cmdIn h)) (List.cons_ne_self w ws)

/-- Settles O8: a state that waits is left as it is (R128, R244), and a step from any other takes a word or a byte,
leaves the phase, or counts an HRESET. -/
theorem stepChangesNothingExactlyWhenWaiting : Obligations.StepChangesNothingExactlyWhenWaiting := by
  refine fun s => ⟨fun h => ?_, step_of_waiting⟩
  cases hr : s.rst with
  | true =>
    rw [step_of_rst hr] at h
    exact absurd (Host.Outcome.next.inj h) (hreset_ne_self s)
  | false =>
    by_cases hp : s.phase = .idle
    · exact waiting_of_step_eq_self_of_idle h hr hp
    · exact waiting_of_tick_eq_self ((step_of_busy hr hp).symm.trans h) hp

end Sys2Proof.Machine
end

section
/-! PROOF. The WRITE command: its tests, its closed form (R118, R120, R127, R128), and the events of the sequencer that
receive its payload (R126). -/

namespace Sys2Proof.Machine

variable {len : U64} {s : State}

/-! ### The tests of WRITE, and what they lead to -/

theorem lenOverflows_iff : lenOverflows s len = true ↔ 2 ^ 64 ≤ s.L.toNat + len.toNat := decide_eq_true_iff

theorem payloadReady_iff : payloadReady len s = true ↔ len.toNat ≤ s.dataIn.length := decide_eq_true_iff

theorem faultOf_write_of_fits (hv : s.cfgValid = true) (hL : s.L.toNat + len.toNat < 2 ^ 64) :
    faultOf (.write len) s = none := by
  have hno : ¬ lenOverflows s len = true := fun h => Nat.not_le_of_lt hL (lenOverflows_iff.mp h)
  simp [faultOf, hv, hno]

/-- The three answers of a WRITE, by the tests of R127 in their order. -/
theorem exec_write_of_not_valid (hv : s.cfgValid = false) :
    exec (.write len) s = .next (faultWrite .notInit len s) :=
  exec_of_faultOf (i := .write len) (by simp [faultOf, hv])

theorem exec_write_of_overflow (hv : s.cfgValid = true) (hL : 2 ^ 64 ≤ s.L.toNat + len.toNat) :
    exec (.write len) s = .next (faultWrite .lenOvf len s) :=
  exec_of_faultOf (i := .write len) (by simp [faultOf, hv, lenOverflows_iff.mpr hL])

theorem exec_write_of_fits (hv : s.cfgValid = true) (hL : s.L.toNat + len.toNat < 2 ^ 64) :
    exec (.write len) s = .next (writeLegal Config.backend len s) :=
  exec_of_no_fault (faultOf_write_of_fits hv hL)

/-- A WRITE that raises an exception, with its payload there and without it (R125, R127). -/
theorem faultWrite_of_ready (e : Status) (hd : len.toNat ≤ s.dataIn.length) :
    faultWrite e len s = raise e (takePayload len s) := if_pos (payloadReady_iff.mpr hd)

theorem faultWrite_of_short (e : Status) (hd : s.dataIn.length < len.toNat) :
    faultWrite e len s = { s with rspHold := responseWord e 0, rem := len, phase := .drain } :=
  if_neg fun h => Nat.not_le_of_lt hd (payloadReady_iff.mp h)

/-- A WRITE that raises no exception, likewise (R110, R125). -/
theorem writeLegal_of_ready (bk : Backend) (hd : len.toNat ≤ s.dataIn.length) :
    writeLegal bk len s = respond .ok 0 (writePayload bk len (payloadBytes len s) (takePayload len s)) :=
  if_pos (payloadReady_iff.mpr hd)

theorem writeLegal_of_short (bk : Backend) (hd : s.dataIn.length < len.toNat) :
    writeLegal bk len s = beginReceive len s :=
  if_neg fun h => Nat.not_le_of_lt hd (payloadReady_iff.mp h)

/-- An opcode of a WRITE decodes to a WRITE, whatever the operand (R73, R75). -/
theorem decode_of_write_opcode {w : CmdWord} (hw : CmdWord.opcodeField w = 0x20) :
    decode w = .ok (.write (CmdWord.operandField w)) := by
  rw [decode, hw]
  exact decodeFields_opcodeOf_operandOf (.write _)

/-- Settles O17: with its payload there, the exception is taken after that payload. -/
theorem writeFaultsDrainThePayload : Obligations.WriteFaultsDrainThePayload := by
  refine ⟨fun len s hv hd => ?notInit, fun len s hv hL hd => ?lenOvf, fun w hw => decode_of_write_opcode hw⟩
  case notInit =>
    rw [exec_write_of_not_valid hv, faultWrite_of_ready _ hd]
    rfl
  case lenOvf =>
    rw [exec_write_of_overflow hv hL, faultWrite_of_ready _ hd]
    rfl

/-- Settles O18: short of its payload a WRITE goes to RECV or DRAIN, where it waits for the host (R213). -/
theorem writeWaitsForItsPayload : Obligations.WriteWaitsForItsPayload := by
  refine ⟨fun len s hv hL hd => ?recv, fun len s hv hL hd => ?lenOvf, fun len s hv hd => ?notInit,
    fun s hr hp hd => ?waits, fun s hr => ⟨hreset s, step_of_rst hr, rfl⟩⟩
  case recv =>
    rw [exec_write_of_fits hv hL, writeLegal_of_short _ hd]
    rfl
  case lenOvf => rw [exec_write_of_overflow hv hL, faultWrite_of_short _ hd]
  case notInit => rw [exec_write_of_not_valid hv, faultWrite_of_short _ hd]
  case waits =>
    have hwait : s.waiting = true := by rcases hp with hp | hp <;> simp [State.waiting, hr, hp, hd]
    have hout : (outputs s.rst s).cmdReady = false ∧ (outputs s.rst s).rsp = none := by
      rcases hp with hp | hp <;> simp [outputs, hp]
    exact ⟨step_of_waiting hwait, hout⟩

/-- A payload of no bytes leaves the data channel as it is. -/
theorem takePayload_zero (s : State) : takePayload 0 s = { s with rem := 0 } := rfl

/-- Settles O16: no byte and no block, so the closed form of a WRITE of no bytes is the state itself. -/
theorem zeroLengthWriteChangesNothing : Obligations.ZeroLengthWriteChangesNothing := by
  refine ⟨fun s hv hb hrem => ?valid, fun s hv hrem => ?notInit⟩
  case valid =>
    have hL : s.L.toNat + (0 : U64).toNat < 2 ^ 64 := s.L.isLt
    rw [exec_write_of_fits hv hL, writeLegal_zero _ hb, ← hrem]
    rfl
  case notInit =>
    rw [exec_write_of_not_valid hv, faultWrite_of_ready _ (Nat.zero_le _), takePayload_zero, ← hrem]
    rfl

/-! ### The closed form -/

/-- Settles O15: the five steps in closed form, with the lengths of what they leave. -/
theorem writeClosedForm : Obligations.WriteClosedForm := by
  intro len s hv hL hd hP B X q
  have hB : B.length = len.toNat := List.length_take_of_le hd
  have hX : X.length = s.P.length + len.toNat := by rw [List.length_append, hB]
  have hq : X.length / 256 = q := by rw [hX]
  refine ⟨?state, ?rest, ?window, length_foldCalls _ q s.S X⟩
  case state =>
    rw [exec_write_of_fits hv hL, writeLegal_of_ready _ hd,
      writePayload_eq _ len _ (takePayload len s) hP, BitVec.ofNat_add, BitVec.ofNat_toNat, BitVec.ofNat_toNat,
      BitVec.setWidth_eq, BitVec.setWidth_eq, ← hq]
    rfl
  case rest =>
    rw [List.length_drop, hX]
    omega
  case window =>
    intro _
    rw [length_lastBytes, List.length_append, hB]

/-! ### The sequencer and the atomic WRITE -/

/-- A word whose command no test stops begins that command (R125). -/
theorem acceptWord_of_no_fault {w : CmdWord} {i : Instr} (hw : decode w = .ok i) (hf : faultOf i s = none) :
    acceptWord w s = acceptLegal i s := by
  simp [acceptWord, hw, hf]

/-- Settles O20: one event accepts the word, and the events that receive its payload end where the five steps do. -/
theorem perByteMachineRefinesAtomicWrite : Obligations.PerByteMachineRefinesAtomicWrite := by
  intro bk len s w ws hr hp hc hw hv hL hd hb
  have hf : faultOf (.write len) { s with cmdIn := ws } = none := faultOf_write_of_fits hv hL
  have haccept := tick_idle bk hr hp hc
  rw [acceptWord_of_no_fault hw hf] at haccept
  have hreceive := ticks_acceptLegal_write bk (s := { s with cmdIn := ws }) hr hb hd
  rw [Nat.add_assoc, Nat.add_comm 1, ticks_succ haccept, hreceive,
    writeCommand_of_legal bk (s := { s with cmdIn := ws }) hv (faultOf_write_eq_none hf).2,
    writeLegal_of_ready bk (s := { s with cmdIn := ws }) hd]

end Sys2Proof.Machine
end

section
/-! PROOF. Chunk-invariance (R121): what the absorbing of a payload does to a constructed accumulator, that two payloads
one after the other are absorbed as one, and that the digest commands see the architectural state alone. -/

namespace Sys2Proof.Machine

variable {B C X rest mid : List Byte} {s t u : State}

/-! ### Whole blocks and what they leave over -/

/-- What the whole blocks of a byte sequence leave over. -/
def leftOver (X : List Byte) : List Byte := X.drop (256 * (X.length / 256))

theorem length_leftOver (X : List Byte) : (leftOver X).length = X.length % 256 := by
  rw [leftOver, List.length_drop]
  omega

/-- What `X` leaves over and the bytes `C` after it are what all these bytes leave over of the blocks of `X`. -/
theorem leftOver_append (X C : List Byte) : leftOver X ++ C = (X ++ C).drop (256 * (X.length / 256)) :=
  (List.drop_append_of_le_length (Nat.mul_div_le _ _)).symm

theorem leftOver_leftOver_append (X C : List Byte) : leftOver (leftOver X ++ C) = leftOver (X ++ C) := by
  have hq : (X ++ C).length / 256 = X.length / 256 + (leftOver X ++ C).length / 256 := length_append_div X C
  rw [leftOver, leftOver_append, List.drop_drop, ← Nat.mul_add, ← leftOver_append, ← hq, leftOver]

/-- Folding the whole blocks of `X`, and then those of what is left over with `C`, folds those of `X ++ C`. -/
theorem foldFrom_append_div (bk : Backend) (S : Bytes256) (X C : List Byte) :
    foldFrom bk ((X ++ C).length / 256) S (X ++ C) =
      foldFrom bk ((leftOver X ++ C).length / 256) (foldFrom bk (X.length / 256) S X) (leftOver X ++ C) := by
  have hq : (X ++ C).length / 256 = X.length / 256 + (leftOver X ++ C).length / 256 := length_append_div X C
  rw [hq, foldFrom_add, foldFrom_append _ _ _ _ _ (Nat.mul_div_le _ _), ← leftOver_append]

/-- The calls of those folds, likewise. -/
theorem foldCalls_append_div (bk : Backend) (S : Bytes256) (X C : List Byte) :
    foldCalls bk ((X ++ C).length / 256) S (X ++ C) = foldCalls bk (X.length / 256) S X ++
      foldCalls bk ((leftOver X ++ C).length / 256) (foldFrom bk (X.length / 256) S X) (leftOver X ++ C) := by
  have hq : (X ++ C).length / 256 = X.length / 256 + (leftOver X ++ C).length / 256 := length_append_div X C
  rw [hq, foldCalls_add, foldCalls_append _ _ _ _ _ (Nat.mul_div_le _ _),
    foldFrom_append _ _ _ _ _ (Nat.mul_div_le _ _), ← leftOver_append]

/-! ### A payload absorbed -/

/-- `t` is `s` with the payload `B` absorbed and `rest` left on the data channel, whatever the responses and the phase:
the closed form of R118. -/
structure Absorbs (B rest : List Byte) (s t : State) : Prop where
  arch : t.arch = { s.arch with
    S := foldFrom Config.backend ((s.P ++ B).length / 256) s.S (s.P ++ B)
    P := leftOver (s.P ++ B)
    T := lastBytes 16 (s.T ++ B)
    L := s.L + BitVec.ofNat 64 B.length }
  stream : t.stream = s.stream ++ B
  calls  : t.calls = s.calls ++ foldCalls Config.backend ((s.P ++ B).length / 256) s.S (s.P ++ B)
  data   : t.dataIn = rest

theorem Absorbs.transferResponse (h : Absorbs B rest s t) : Absorbs B rest s (transferResponse t) := by
  obtain ⟨harch, hstream, hcalls, hdata⟩ := h
  exact ⟨harch, hstream, hcalls, hdata⟩

/-- What is absorbed keeps the accumulator, and the buffers within their bounds. -/
theorem Absorbs.valid (h : Absorbs B rest s t) : t.cfgValid = s.cfgValid := congrArg Arch.cfgValid h.arch

theorem Absorbs.bounded (h : Absorbs B rest s t) : t.buffersBounded := by
  have hP : t.P = leftOver (s.P ++ B) := congrArg Arch.P h.arch
  have hT : t.T = lastBytes 16 (s.T ++ B) := congrArg Arch.T h.arch
  refine ⟨?_, ?_⟩
  · rw [hP, length_leftOver]
    exact Nat.mod_lt _ (by decide)
  · rw [hT, length_lastBytes]
    exact Nat.min_le_left _ _

/-- The length after a payload that does not overflow (R112). -/
theorem Absorbs.length (h : Absorbs B rest s t) (hL : s.L.toNat + B.length < 2 ^ 64) :
    t.L.toNat = s.L.toNat + B.length := by
  have hsum : t.L = s.L + BitVec.ofNat 64 B.length := congrArg Arch.L h.arch
  rw [hsum, BitVec.toNat_add, BitVec.toNat_ofNat, Nat.mod_eq_of_lt (by omega : B.length < 2 ^ 64),
    Nat.mod_eq_of_lt hL]

/-- No bytes: the state itself (R120). -/
theorem absorbs_nil (hb : s.buffersBounded) (hd : s.dataIn = rest) : Absorbs [] rest s s := by
  obtain ⟨hP, hT⟩ := hb
  have hq : s.P.length / 256 = 0 := Nat.div_eq_of_lt hP
  refine ⟨?_, (List.append_nil _).symm, ?_, hd⟩
  · simp [State.arch, leftOver, hq, foldFrom, lastBytes_of_length_le hT]
  · simp [hq, foldCalls]

/-- Two payloads one after the other are absorbed as one (R121). -/
theorem Absorbs.trans (h : Absorbs B mid s t) (h' : Absorbs C rest t u) : Absorbs (B ++ C) rest s u := by
  obtain ⟨harch, hstream, hcalls, _⟩ := h
  obtain ⟨harch', hstream', hcalls', hdata'⟩ := h'
  obtain ⟨_, _, _, hS, hP, hT, hL⟩ := Arch.mk.inj harch
  refine ⟨?_, ?_, ?_, hdata'⟩
  · rw [harch', harch, hS, hP, hT, hL, leftOver_leftOver_append, lastBytes_lastBytes_append, ← foldFrom_append_div,
      BitVec.add_assoc, ← BitVec.ofNat_add, ← List.length_append, List.append_assoc, List.append_assoc]
  · rw [hstream', hstream, List.append_assoc]
  · rw [hcalls', hcalls, hS, hP, List.append_assoc, ← foldCalls_append_div, List.append_assoc]

/-- A WRITE of bytes that are presented, on an accumulator whose length does not overflow (R110, R118). -/
theorem exec_writeOf_absorbs (hv : s.cfgValid = true) (hb : s.buffersBounded) (hd : s.dataIn = C ++ rest)
    (hL : s.L.toNat + C.length < 2 ^ 64) : ∃ t, exec (writeOf C) s = .next t ∧ Absorbs C rest s t := by
  have hlen : (BitVec.ofNat 64 C.length).toNat = C.length := by
    rw [BitVec.toNat_ofNat, Nat.mod_eq_of_lt (by omega)]
  have hform := writeClosedForm (BitVec.ofNat 64 C.length) s hv (by rwa [hlen]) (by simp [hlen, hd]) hb.1
  rw [hlen, hd, List.take_left, List.drop_left, ← List.length_append, BitVec.ofNat_add, BitVec.ofNat_toNat,
    BitVec.setWidth_eq] at hform
  exact ⟨_, hform.1, rfl, rfl, rfl, rfl⟩

/-- WRITEs of chunks absorb all the chunks (R121). -/
theorem runCommands_writes_absorbs {cs : List (List Byte)} (hv : s.cfgValid = true) (hb : s.buffersBounded)
    (hd : s.dataIn = cs.flatten ++ rest) (hL : s.L.toNat + cs.flatten.length < 2 ^ 64) :
    ∃ t, runCommands (cs.map writeOf) s = .next t ∧ Absorbs cs.flatten rest s t := by
  induction cs generalizing s with
  | nil => exact ⟨s, rfl, absorbs_nil hb hd⟩
  | cons c cs ih =>
    rw [List.flatten_cons, List.append_assoc] at hd
    rw [List.flatten_cons, List.length_append] at hL
    obtain ⟨m, hm, habs⟩ := exec_writeOf_absorbs hv hb hd (by omega)
    have hnext := habs.transferResponse
    obtain ⟨t, ht, hrest⟩ := ih (hnext.valid.trans hv) hnext.bounded hnext.data
      (by rw [hnext.length (by omega)]; omega)
    exact ⟨t, (runCommands_cons _ hm).trans ht, hnext.trans hrest⟩

/-! ### The digest commands -/

/-- The tests of R208 and the digest look at the architectural state alone. -/
theorem faultOf_of_arch_eq (h : t.arch = u.arch) (i : Instr) : faultOf i t = faultOf i u := by
  cases t
  cases u
  cases h
  rfl

theorem finalize_of_arch_eq (bk : Backend) (h : t.arch = u.arch) : finalize bk t = finalize bk u := by
  cases t
  cases u
  cases h
  rfl

/-- A digest command's response is a function of the architectural state (R150). -/
theorem digest_rspHold_of_arch_eq {d : Instr} (hd : isDigestCommand d = true) (h : t.arch = u.arch) :
    ∃ t' u', exec d t = .next t' ∧ exec d u = .next u' ∧ t'.rspHold = u'.rspHold := by
  cases hf : faultOf d t with
  | some e =>
    have hf' : faultOf d u = some e := (faultOf_of_arch_eq h d).symm.trans hf
    refine ⟨_, _, exec_of_faultOf hf, exec_of_faultOf hf', ?_⟩
    cases d with
    | sum | sumInto dstLen | sum64 | sum32 => rfl
    | _ => cases hd
  | none =>
    have hf' : faultOf d u = none := (faultOf_of_arch_eq h d).symm.trans hf
    have hF := finalize_of_arch_eq Config.backend h
    have hw : t.width = u.width := congrArg Arch.width h
    refine ⟨_, _, exec_of_no_fault hf, exec_of_no_fault hf', ?_⟩
    cases d with
    | sum | sumInto dstLen | sum64 | sum32 => simp only [execLegal, answerDigest, respond_rspHold, hF, hw]
    | _ => cases hd

/-! ### The limit crossed -/

/-- A WRITE that crosses the limit of `L` (R112, R127). -/
theorem exec_writeOf_of_overflow (hv : s.cfgValid = true) (hC : C.length < 2 ^ 64)
    (hL : 2 ^ 64 ≤ s.L.toNat + C.length) :
    ∃ t, exec (writeOf C) s = .next t ∧ t.rspHold = responseWord .lenOvf 0 ∧ t.arch = s.arch := by
  have hlen : (BitVec.ofNat 64 C.length).toNat = C.length := by rw [BitVec.toNat_ofNat, Nat.mod_eq_of_lt hC]
  refine ⟨_, exec_write_of_overflow hv (by rwa [hlen]), ?_, (faultWrite_keeps _ _ s).1⟩
  unfold faultWrite
  split <;> rfl

/-- Settles O19: the chunks and their concatenation are absorbed alike, and a chunk that crosses the limit faults after
the earlier ones. -/
theorem chunkInvariance : Obligations.ChunkInvariance := by
  refine ⟨fun cs rest s hv hb hd hL => ?fits, fun cs c rest s hv hb hd hL hover hlen => ?crosses⟩
  case fits =>
    obtain ⟨t, ht, habs⟩ := runCommands_writes_absorbs hv hb hd hL
    obtain ⟨u, hu, habs'⟩ := runCommands_writes_absorbs (cs := [cs.flatten]) (rest := rest) hv hb
      (by rwa [List.flatten_singleton]) (by rwa [List.flatten_singleton])
    rw [List.flatten_singleton] at habs'
    have harch : t.arch = u.arch := habs.arch.trans habs'.arch.symm
    exact ⟨t, u, ht, hu, harch, habs.stream.trans habs'.stream.symm, habs.calls.trans habs'.calls.symm, habs.data,
      habs'.data, fun d hdig => digest_rspHold_of_arch_eq hdig harch⟩
  case crosses =>
    rw [List.append_assoc] at hd
    obtain ⟨t, ht, habs⟩ := runCommands_writes_absorbs hv hb hd hL
    have hLt := habs.length hL
    rw [List.length_append] at hover
    obtain ⟨u, hu, hrsp, harch⟩ := exec_writeOf_of_overflow (C := c) (habs.valid.trans hv)
      (by rw [List.length_append] at hlen; omega) (by rw [hLt]; omega)
    obtain ⟨v, hv', hrsp', harch'⟩ := exec_writeOf_of_overflow (C := cs.flatten ++ c) hv hlen
      (by rwa [List.length_append])
    exact ⟨t, u, v, ht, hLt, hu, hrsp, harch, hv', hrsp', harch'⟩

end Sys2Proof.Machine
end

section
/-! PROOF. The RESET command: its answers (R140), and reset equivalence (R143), which holds because a constructed
accumulator's architectural state is fixed by its seed, its width and its stream. -/

namespace Sys2Proof.Machine

variable {bk : Backend} {seed : U64} {width : Width} {X data : List Byte} {s t : State}

/-! ### The answers of RESET -/

theorem exec_reset_of_valid (hv : s.cfgValid = true) : exec .reset s = .next (respond .ok 0 (clearDatapath s)) :=
  whenConstructed_of_valid _ hv

theorem exec_reset_of_not_valid (hv : s.cfgValid = false) : exec .reset s = .next (raise .notInit s) :=
  whenConstructed_of_not _ hv

/-- Settles O12: RESET clears the datapath or raises NOT_INIT, and its opcode is one whose operand is reserved. -/
theorem resetClearsTheDatapath : Obligations.ResetClearsTheDatapath := by
  refine ⟨fun s hv => exec_reset_of_valid hv, fun s hv => exec_reset_of_not_valid hv, fun w hw hx => ?_⟩
  have hop : CmdWord.opcodeField w ∈ reservedOperandOpcodes := by
    rw [hw]
    decide
  exact ⟨_, decodeFields_of_reserved hop hx⟩

/-! ### Commands on an accumulator that holds a stream -/

/-- Each constructor begins an accumulator with the empty stream, of a width and a seed of its own (R100). -/
theorem exec_construct_accumulates {x : Instr} (hx : isConstruct x = true) :
    ∃ seed width, ∀ s : State, ∃ t, exec x s = .next t ∧ Accumulates Config.backend seed width [] s.dataIn t := by
  have hnew (seed : U64) (width : Width) (s : State) :
      Accumulates Config.backend seed width [] s.dataIn (respond .ok 0 (construct width seed s)) :=
    accumulates_construct Config.backend seed width (respond .ok 0 s)
  cases x with
  | new seed => exact ⟨seed, .w16, fun s => ⟨_, rfl, hnew seed .w16 s⟩⟩
  | new64 seed => exact ⟨seed, .w8, fun s => ⟨_, rfl, hnew seed .w8 s⟩⟩
  | new32 seed => exact ⟨seed, .w4, fun s => ⟨_, rfl, hnew seed .w4 s⟩⟩
  | _ => cases hx

/-- RESET makes the stream empty again, and takes no payload (R140, R142). -/
theorem Accumulates.exec_reset (h : Accumulates bk seed width X data s) :
    ∃ t, exec .reset s = .next t ∧ Accumulates bk seed width [] data t := by
  obtain ⟨hv, hseed, hwidth, _, hd, _⟩ := h
  exact ⟨_, exec_reset_of_valid hv, hv, hseed, hwidth, rfl, hd, holdsWholeStream_of_cleared rfl rfl rfl rfl rfl⟩

/-- The seed, the width and the stream fix the architectural state (R36 to R40). -/
theorem Accumulates.arch_eq {data' : List Byte} (hs : Accumulates bk seed width X data s)
    (ht : Accumulates bk seed width X data' t) : s.arch = t.arch := by
  obtain ⟨hv, hseed, hwidth, hX, _, _, hlen, hP, hS, hT⟩ := hs
  obtain ⟨hv', hseed', hwidth', hX', _, _, hlen', hP', hS', hT'⟩ := ht
  have hL : s.L = t.L := BitVec.eq_of_toNat_eq (by rw [hlen, hlen', hX, hX'])
  rw [State.arch, State.arch, hv, hseed, hwidth, hS, hP, hT, hL, hX, hv', hseed', hwidth', hS', hP', hT', hX']

/-! ### Reset equivalence -/

/-- Settles O22: after RESET as after the constructor the stream is empty, so both sequences end with the stream `b` on
an accumulator of the same seed and width. -/
theorem resetEquivalence : Obligations.ResetEquivalence := by
  intro x a b rest s hx ha hb
  obtain ⟨seed, width, hnew⟩ := exec_construct_accumulates hx
  obtain ⟨t₁, hx₁, h₁⟩ := hnew { s with dataIn := a ++ b ++ rest }
  rw [List.append_assoc] at h₁
  obtain ⟨t₂, ha₂, h₂⟩ := h₁.transferResponse.writeCommand ha
  obtain ⟨t₃, hr₃, h₃⟩ := h₂.transferResponse.exec_reset
  obtain ⟨t₄, hb₄, h₄⟩ := h₃.transferResponse.writeCommand hb
  obtain ⟨u₁, hux₁, hu₁⟩ := hnew { s with dataIn := b ++ rest }
  obtain ⟨u₂, hub₂, hu₂⟩ := hu₁.transferResponse.writeCommand hb
  have harch : (transferResponse t₄).arch = (transferResponse u₂).arch :=
    h₄.transferResponse.arch_eq hu₂.transferResponse
  refine ⟨transferResponse t₄, transferResponse u₂, ?_, ?_, harch, h₄.data, hu₂.data,
    fun d hdig => digest_rspHold_of_arch_eq hdig harch⟩
  · rw [runCommands_cons _ hx₁, runCommands_cons (i := writeOf a) _ ha₂, runCommands_cons _ hr₃,
      runCommands_cons (i := writeOf b) _ hb₄, runCommands]
  · rw [runCommands_cons _ hux₁, runCommands_cons (i := writeOf b) _ hub₂, runCommands]

end Sys2Proof.Machine
end

section
/-! PROOF. The digest commands beside one another: the order of their checks (R160), a digest asked for again (R153), a
digest amid WRITEs (R154), and digests of different widths (R161). -/

namespace Sys2Proof.Machine

variable {d i : Instr} {s t : State}

/-! ### The checks -/

theorem faultOf_digest_of_not_valid (hd : isDigestCommand d = true) (hv : s.cfgValid = false) :
    faultOf d s = some .notInit := by
  cases d with
  | sum | sumInto dstLen | sum64 | sum32 => exact if_pos hv
  | _ => cases hd

theorem faultOf_sumInto_of_dstLen {dstLen : U64} (hv : s.cfgValid = true) (hx : dstLen ≠ 16) :
    faultOf (.sumInto dstLen) s = some .precond := by
  simpa [faultOf, hv, dstLenBad] using hx

theorem faultOf_sumInto_of_width (hv : s.cfgValid = true) (hw : s.width ≠ .w16) :
    faultOf (.sumInto 16) s = some .width := by
  have hbad : sumIntoWidthBad s = true := by
    cases h : s.width with
    | w16 => exact absurd h hw
    | w4 | w8 => simp [sumIntoWidthBad, h, widthBytes]
  simp [faultOf, hv, dstLenBad, hbad]

theorem faultOf_sum64_of_w4 (hv : s.cfgValid = true) (hw : s.width = .w4) : faultOf .sum64 s = some .width := by
  simp [faultOf, hv, sum64WidthBad, hw, widthBytes]

/-- A digest command has no payload to drain: an exception is only answered (R210). -/
theorem exec_digest_of_faultOf {e : Status} (hd : isDigestCommand d = true) (hf : faultOf d s = some e) :
    exec d s = .next (raise e s) := by
  rw [exec_of_faultOf hf]
  cases d with
  | sum | sumInto dstLen | sum64 | sum32 => rfl
  | _ => cases hd

/-- Settles O28: each check is the first of R208 that the state and the operand fail. -/
theorem digestFaultsInOrder : Obligations.DigestFaultsInOrder :=
  ⟨fun _ _ hd hv => exec_digest_of_faultOf hd (faultOf_digest_of_not_valid hd hv),
    fun _ _ hv hx => exec_digest_of_faultOf rfl (faultOf_sumInto_of_dstLen hv hx),
    fun _ hv hw => exec_digest_of_faultOf rfl (faultOf_sumInto_of_width hv hw),
    fun _ hv hw => exec_digest_of_faultOf rfl (faultOf_sum64_of_w4 hv hw)⟩

/-! ### Commands that leave the architectural state alone -/

theorem State.buffersBounded.of_arch_eq (hb : s.buffersBounded) (h : t.arch = s.arch) : t.buffersBounded := by
  have hP : t.P = s.P := congrArg Arch.P h
  have hT : t.T = s.T := congrArg Arch.T h
  rwa [State.buffersBounded, hP, hT]

/-- The digest commands, the queries and the empty WRITE: what may stand between two digests in R153. -/
def keepsAccumulator (i : Instr) : Prop := isDigestCommand i = true ∨ i = .size ∨ i = .blksz ∨ i = .write 0

theorem exec_arch_of_keepsAccumulator (hi : keepsAccumulator i) (hb : s.buffersBounded) (h : exec i s = .next t) :
    t.arch = s.arch := by
  have hkinds : isConstruct i = false ∧ i ≠ .reset ∧ ∀ len, i = .write len → len = 0 := by
    rcases hi with hd | rfl | rfl | rfl
    · cases i with
      | sum | sumInto dstLen | sum64 | sum32 => exact ⟨rfl, nofun, nofun⟩
      | _ => cases hd
    · exact ⟨rfl, nofun, nofun⟩
    · exact ⟨rfl, nofun, nofun⟩
    · exact ⟨rfl, nofun, fun len hlen => (Instr.write.inj hlen).symm⟩
  obtain ⟨hconstruct, hreset, hempty⟩ := hkinds
  exact (otherCommandsKeepTheArchitecturalState i s t hconstruct hreset hb
    (fun len hlen => .inl (hempty len hlen)) h).1

theorem runCommands_arch_of_keepsAccumulator {is : List Instr} (his : ∀ i ∈ is, keepsAccumulator i)
    (hb : s.buffersBounded) : ∃ u, runCommands is s = .next u ∧ u.arch = s.arch := by
  induction is generalizing s with
  | nil => exact ⟨s, rfl, rfl⟩
  | cons i is ih =>
    obtain ⟨hi, his⟩ := List.forall_mem_cons.mp his
    obtain ⟨t, ht⟩ := exec_next i s
    have hkept : t.arch = s.arch := exec_arch_of_keepsAccumulator hi hb ht
    obtain ⟨u, hu, harch⟩ := ih (s := transferResponse t) his (hb.of_arch_eq hkept)
    exact ⟨u, (runCommands_cons is ht).trans hu, harch.trans hkept⟩

/-- Settles O29: the first digest and the commands after it keep the architectural state, of which the response is a
function. -/
theorem idempotentFinalize : Obligations.IdempotentFinalize := by
  intro d between s hd hb hbetween
  obtain ⟨t, ht⟩ := exec_next d s
  have hkept : t.arch = s.arch := exec_arch_of_keepsAccumulator (.inl hd) hb ht
  obtain ⟨u, hu, harch⟩ := runCommands_arch_of_keepsAccumulator (s := transferResponse t) hbetween
    (hb.of_arch_eq hkept)
  obtain ⟨v, t', hv, ht', hrsp⟩ := digest_rspHold_of_arch_eq hd (harch.trans hkept)
  cases ht.symm.trans ht'
  exact ⟨t, u, v, ht, hu, hv, hrsp⟩

/-! ### A digest between two WRITEs -/

/-- What a payload leaves of the architectural state depends on the architectural state before it alone. -/
theorem Absorbs.arch_eq_of_arch_eq {B rest rest' : List Byte} {s' t' : State} (h : Absorbs B rest s t)
    (h' : Absorbs B rest' s' t') (hs : s'.arch = s.arch) : t'.arch = t.arch := by
  obtain ⟨_, _, _, hS, hP, hT, hL⟩ := Arch.mk.inj hs
  rw [h'.arch, h.arch, hs, hS, hP, hT, hL]

/-- SUM on two accumulators with one architectural state: one response, and still one architectural state. -/
theorem exec_sum_of_arch_eq (hv : s.cfgValid = true) (h : s.arch = t.arch) :
    ∃ s' t', exec .sum s = .next s' ∧ exec .sum t = .next t' ∧ s'.rspHold = t'.rspHold ∧ s'.arch = t'.arch := by
  have hv' : t.cfgValid = true := (congrArg Arch.cfgValid h).symm.trans hv
  obtain ⟨s', t', hs', ht', hrsp⟩ := digest_rspHold_of_arch_eq (d := .sum) rfl h
  cases hs'.symm.trans (exec_sum hv)
  cases ht'.symm.trans (exec_sum hv')
  exact ⟨_, _, hs', ht', hrsp, h⟩

/-- A SUM before a WRITE changes nothing of what the WRITE leaves of the architectural state. -/
theorem exec_sum_writeOf_arch {C rest : List Byte} {w : State} (hv : s.cfgValid = true) (hb : s.buffersBounded)
    (hL : s.L.toNat + C.length < 2 ^ 64) (hd : s.dataIn = C ++ rest) (hw : Absorbs C rest s w) :
    ∃ m t, exec .sum s = .next m ∧ exec (writeOf C) (transferResponse m) = .next t ∧ t.arch = w.arch := by
  obtain ⟨t, ht, habs⟩ := exec_writeOf_absorbs
    (s := transferResponse (answerDigest Config.backend 0x30 (digestBytesPayload (widthBytes s.width)) s)) hv hb hd hL
  exact ⟨_, t, exec_sum hv, ht, hw.arch_eq_of_arch_eq habs rfl⟩

/-- Settles O30: a SUM between the WRITEs changes nothing of what they absorb, which is the concatenation. -/
theorem writingContinuesAfterADigest : Obligations.WritingContinuesAfterADigest := by
  intro a b rest s hv hb hd hL
  obtain ⟨u, hu, habs⟩ := exec_writeOf_absorbs hv hb hd hL
  rw [List.append_assoc] at hd
  rw [List.length_append] at hL
  obtain ⟨m₁, hm₁, ha⟩ := exec_writeOf_absorbs hv hb hd (by omega)
  have ha := ha.transferResponse
  have hv₁ := ha.valid.trans hv
  have hL₁ : (transferResponse m₁).L.toNat + b.length < 2 ^ 64 := by
    rw [ha.length (by omega)]
    omega
  obtain ⟨w, _, hwb⟩ := exec_writeOf_absorbs hv₁ ha.bounded ha.data hL₁
  obtain ⟨m₂, t, hm₂, ht, htw⟩ := exec_sum_writeOf_arch hv₁ ha.bounded hL₁ ha.data hwb
  have harch : t.arch = u.arch := htw.trans ((ha.trans hwb).arch.trans habs.arch.symm)
  obtain ⟨u', t', hu', ht', hrsp, harch'⟩ := exec_sum_of_arch_eq (s := transferResponse u) (t := transferResponse t)
    (habs.valid.trans hv) harch.symm
  refine ⟨transferResponse t', transferResponse u', ?_, ?_, hrsp.symm, harch'.symm⟩
  · rw [runCommands_cons (i := writeOf a) _ hm₁, runCommands_cons _ hm₂, runCommands_cons (i := writeOf b) _ ht,
      runCommands_cons _ ht', runCommands]
  · rw [runCommands_cons (i := writeOf (a ++ b)) _ hu, runCommands_cons _ hu', runCommands]

/-! ### Digests of different widths -/

/-- The first `k` bytes of a sequence are its little-endian value modulo `2^(8k)` (R54). -/
theorem leNat_take (k : Nat) (x : List Byte) : leNat (x.take k) = leNat x % 2 ^ (8 * k) := by
  induction x generalizing k with
  | nil => simp [leNat]
  | cons b bs ih =>
    cases k with
    | zero => simp [leNat, Nat.mod_one]
    | succ k =>
      have hb : b.toNat < 256 := b.isLt
      have hlow : (b.toNat + 256 * leNat bs) % 256 = b.toNat := by omega
      have hhigh : (b.toNat + 256 * leNat bs) / 256 = leNat bs := by omega
      have hpow : 2 ^ (8 * (k + 1)) = 256 * 2 ^ (8 * k) := by rw [Nat.mul_succ, Nat.pow_add, Nat.mul_comm]
      rw [List.take_succ_cons, leNat, leNat, ih, hpow, Nat.mod_mul, hlow, hhigh]

/-- A shorter digest payload is the low bits of a longer one (R161). -/
theorem digestIntPayload_mod {j k : Nat} (hjk : j ≤ k) (hk : k ≤ 16) (F : Bytes16) :
    (digestIntPayload j F).toNat = (digestIntPayload k F).toNat % 2 ^ (8 * j) := by
  rw [toNat_digestIntPayload (hjk.trans hk), toNat_digestIntPayload hk, ← leNat_take, List.take_take,
    Nat.min_eq_left hjk]

/-- The response of a digest command carries the payload that it shapes (R150). -/
theorem rspPayload_answerDigest (bk : Backend) (op : BitVec 8) (shape : Bytes16 → BitVec 128) (s : State) :
    rspPayload (answerDigest bk op shape s).rspHold = shape (finalize bk s) :=
  rspPayload_responseWord .ok _

theorem widthBytes_le (w : Width) : widthBytes w ≤ 16 := by
  cases w <;> decide

/-- The response of SUM as an integer (R54, R151). -/
theorem exec_sum_payload (hv : s.cfgValid = true) :
    ∃ t, exec .sum s = .next t ∧
      rspPayload t.rspHold = digestIntPayload (widthBytes s.width) (finalize Config.backend s) := by
  refine ⟨_, exec_sum hv, (rspPayload_answerDigest _ _ _ s).trans ?_⟩
  exact (digestIntegerAndByteFormsCoincide _ _ (widthBytes_le s.width)).symm

/-- Settles O31: the two accumulators have one digest, and each response is the integer of its first bytes. -/
theorem widthPrefixLaw : Obligations.WidthPrefixLaw := by
  intro s s' hv hv' hw hseed hS hP hT hL
  have hF : finalize Config.backend s' = finalize Config.backend s := by
    rw [finalize, finalize, hseed, hS, hP, hT, hL]
  obtain ⟨t, ht, hpl⟩ := exec_sum_payload hv
  obtain ⟨t', ht', hpl'⟩ := exec_sum_payload hv'
  rw [hw] at hpl
  rw [hF] at hpl'
  refine ⟨t, t', _, _, ht, ht', exec_sum64 hv (by simp [hw]), exec_sum32 hv', ?_, ?_, ?_⟩
  · rw [hpl, hpl']
    exact digestIntPayload_mod (widthBytes_le s'.width) le_rfl _
  · rw [hpl, rspPayload_answerDigest]
    exact digestIntPayload_mod (k := 16) (by decide) le_rfl _
  · rw [rspPayload_answerDigest, rspPayload_answerDigest, hF]
    exact digestIntPayload_mod (j := 4) (k := 8) (by decide) (by decide) _

end Sys2Proof.Machine
end

section
/-! PROOF. The query commands SIZE and BLKSZ: each needs an accumulator (R172), answers a value and changes nothing else
(R170, R171), and takes no operand. -/

namespace Sys2Proof.Machine

variable {s : State}

/-- An opcode whose operand is reserved, with an operand that is not 0, makes an ILLEGAL word (R76). -/
theorem exists_decode_error_of_reserved {op : BitVec 8} (hop : op ∈ reservedOperandOpcodes) {w : CmdWord}
    (hw : CmdWord.opcodeField w = op) (hx : CmdWord.operandField w ≠ 0) : ∃ why, decode w = .error why :=
  ⟨_, decodeFields_of_reserved (hw ▸ hop) hx⟩

theorem exec_size_of_valid (hv : s.cfgValid = true) :
    exec .size s = .next (respond .ok (sizeValue s.width) s) :=
  whenConstructed_of_valid _ hv

theorem exec_size_of_not_valid (hv : s.cfgValid = false) : exec .size s = .next (raise .notInit s) :=
  whenConstructed_of_not _ hv

/-- Settles O13: the width in bytes is 4, 8 or 16 by the cases of the width; without an accumulator the answer is
NOT_INIT, and the operand of SIZE is reserved. -/
theorem sizeAnswersTheWidth : Obligations.SizeAnswersTheWidth := by
  refine ⟨fun s hv => ?_, fun s hv => exec_size_of_not_valid hv,
    fun w hw hx => exists_decode_error_of_reserved (by decide) hw hx⟩
  rw [exec_size_of_valid hv, respond]
  cases s.width with
  | w4 | w8 | w16 => rfl

theorem exec_blksz_of_valid (hv : s.cfgValid = true) : exec .blksz s = .next (respond .ok blockSizeValue s) :=
  whenConstructed_of_valid _ hv

theorem exec_blksz_of_not_valid (hv : s.cfgValid = false) : exec .blksz s = .next (raise .notInit s) :=
  whenConstructed_of_not _ hv

/-- Settles O14: the block size is the constant 256 in every constructed state; without an accumulator the answer is
NOT_INIT, and the operand of BLKSZ is reserved. -/
theorem blockSizeAnswers256 : Obligations.BlockSizeAnswers256 :=
  ⟨fun _ hv => exec_blksz_of_valid hv, fun _ hv => exec_blksz_of_not_valid hv,
    fun _ hw hx => exists_decode_error_of_reserved (by decide) hw hx⟩

end Sys2Proof.Machine
end

section
/-! PROOF. The `Fin` request ports (R192, R193): bytes beyond the counts are 0, and the counts fit in their ports. -/

namespace Sys2Proof.Machine

/-- Settles O52: within their bounds `P` and `T` fit in their byte ports, so the packing fills the rest with zeros, and
their lengths fit in the 8-bit and the 5-bit count. -/
theorem finPortsAreMasked : Obligations.FinPortsAreMasked := by
  rintro s ⟨hP, hT⟩
  have hPfits : 8 * s.P.length ≤ 2048 := by omega
  have hTfits : 8 * s.T.length ≤ 128 := by omega
  have hnFits : s.P.length < 2 ^ 8 := hP
  have htlenFits : s.T.length < 2 ^ 5 := by omega
  exact ⟨fun i => byteAt_packBytes 2048 s.P i hPfits, fun i => byteAt_packBytes 128 s.T i hTfits,
    (BitVec.toNat_ofNat ..).trans (Nat.mod_eq_of_lt hnFits),
    (BitVec.toNat_ofNat ..).trans (Nat.mod_eq_of_lt htlenFits)⟩

end Sys2Proof.Machine
end

section
/-! PROOF. The exceptions (R203, R208 to R211): what a faulting command changes, when NOT_INIT is raised, and that from a
state with the invariant nothing stops the machine (R209, R213). -/

namespace Sys2Proof.Machine

variable {i : Instr} {s t : State}

/-! ### An exception taken -/

/-- With the payload there and no byte awaited, an exception changes the response and the phase, and takes the payload
(R127, R210). -/
theorem execFaulted_of_payloadThere (e : Status) (h : payloadThere i s) (hrem : s.rem = 0) :
    execFaulted e i s = { s with
      dataIn := s.dataIn.drop i.payloadLength, rspHold := responseWord e 0, phase := .resp } := by
  cases i with
  | write len =>
    rw [hrem]
    exact faultWrite_of_ready e h
  | _ => rfl

/-- Settles O36: the exception that the tests name is the one that `exec` takes, and it is taken with the payload
drained. -/
theorem faultsAreTakenAndChangeNothing : Obligations.FaultsAreTakenAndChangeNothing :=
  fun _ _ e hf hd hrem => (exec_of_faultOf hf).trans (congrArg Host.Outcome.next (execFaulted_of_payloadThere e hd hrem))

/-! ### NOT_INIT -/

/-- Without an accumulator every command but NEW* fails its first test, whatever its operand (R203, R208). -/
theorem faultOf_of_not_valid (hi : isConstruct i = false) (hv : s.cfgValid = false) : faultOf i s = some .notInit := by
  cases i with
  | new seed | new64 seed | new32 seed => cases hi
  | _ => exact if_pos hv

/-- With an accumulator a command's exceptions are its own: LEN_OVF of WRITE, PRECOND and WIDTH of the digests. -/
theorem faultOf_ne_notInit (i : Instr) (hv : s.cfgValid = true) : faultOf i s ≠ some .notInit := by
  have hvalid : ¬ s.cfgValid = false := by simp [hv]
  cases i with
  | new seed | new64 seed | new32 seed => nofun
  | write len =>
    rw [faultOf, if_neg hvalid]
    split <;> nofun
  | sumInto dstLen =>
    rw [faultOf, if_neg hvalid]
    split
    · nofun
    · split <;> nofun
  | sum64 =>
    rw [faultOf, if_neg hvalid]
    split <;> nofun
  | reset | sum | sum32 | size | blksz =>
    rw [faultOf, if_neg hvalid]
    nofun

/-- The code 0x02 is NOT_INIT's alone (R81, R200). -/
theorem Status.code_eq_0x02_iff {e : Status} : e.code = 0x02 ↔ e = .notInit := by
  cases e <;> decide

/-- With an accumulator neither a command's exceptions nor its effect have the status of NOT_INIT (R203). -/
theorem rspStatus_ne_notInit (hv : s.cfgValid = true) (hd : payloadThere i s) (h : exec i s = .next t) :
    rspStatus t.rspHold ≠ 0x02 := by
  rcases exec_cases h with ⟨e, hf, rfl⟩ | ⟨_, rfl⟩
  · obtain ⟨u, hu, _⟩ := execFaulted_eq_respond e hd
    rw [hu, respond_rspHold, rspStatus_responseWord]
    intro hcode
    exact faultOf_ne_notInit i hv (Status.code_eq_0x02_iff.mp hcode ▸ hf)
  · obtain ⟨pl, u, hu, _⟩ := execLegal_eq_respond hd
    rw [hu, respond_rspHold, rspStatus_responseWord]
    decide

/-- No command's effect gives the accumulator up: NEW* makes one, and the others keep the configuration (R23). -/
theorem execLegal_cfgValid (i : Instr) (hv : s.cfgValid = true) : (execLegal i s).cfgValid = true := by
  cases hi : isConstruct i with
  | false => exact (execLegal_config hi s).1.trans hv
  | true =>
    cases i with
    | new seed | new64 seed | new32 seed => rfl
    | _ => cases hi

/-- Out of HRESET a constructed accumulator stays (R23, R203). -/
theorem step_keeps_cfgValid (hr : s.rst = false) (hv : s.cfgValid = true) (h : step s = .next t) :
    t.cfgValid = true := by
  rcases step_config h hr with ⟨hkeep, _⟩ | ⟨w, ws, i, _, _, _, _, rfl⟩
  · exact hkeep.trans hv
  · exact execLegal_cfgValid i hv

/-- Settles O35: before construction the first test fails and its exception is taken; after it the accumulator stays, and
no test names NOT_INIT. -/
theorem notInitBeforeConstruction : Obligations.NotInitBeforeConstruction :=
  ⟨fun i s hi hv hd hrem => faultsAreTakenAndChangeNothing i s .notInit (faultOf_of_not_valid hi hv) hd hrem,
    fun _ _ hr hv h => step_keeps_cfgValid hr hv h, fun _ _ _ hv hd h => rspStatus_ne_notInit hv hd h⟩

/-! ### The machine never stops -/

/-- Settles O46: a command always answers, and the invariant rules out the two phases' faults of the sequencer: in FOLD
the buffer is full, and in FINAL a digest opcode is held. -/
theorem invariantStatesNeverStop : Obligations.InvariantStatesNeverStop := by
  intro s h
  rcases step_cases s with ⟨_, e⟩ | ⟨_, _, _, e⟩ | ⟨w, ws, i, _, _, _, _, e⟩ | ⟨w, ws, why, _, _, _, _, e⟩ |
    ⟨_, _, e⟩ <;> rw [e]
  · exact ⟨_, rfl⟩
  · exact ⟨_, rfl⟩
  · exact exec_next i { s with cmdIn := ws }
  · exact ⟨_, rfl⟩
  · exact tick_next h.bufferFull h.digestHeld

end Sys2Proof.Machine
end

section
/-! PROOF. Hardware reset from every state (R230, R231), and the backend calls that a stream and a digest make (R248). -/

namespace Sys2Proof.Machine

variable {s : State}

/-- Settles O48: the edge is `hreset`, whatever was in progress, and every output is gated by `rst`. -/
theorem hardwareReset : Obligations.HardwareReset := fun s hr =>
  ⟨hreset s, step_of_rst hr, rfl, rfl, rfl, rfl, rfl, rfl, rfl, hreset_bounded s, by simp [outputs, hr]⟩

/-! ### Backend calls -/

/-- Each constructor answers an accumulator of a width and a seed of its own (R100). -/
theorem exec_construct {x : Instr} (hx : isConstruct x = true) :
    ∃ width seed, ∀ s, exec x s = .next (respond .ok 0 (construct width seed s)) := by
  cases x with
  | new seed => exact ⟨.w16, seed, fun _ => rfl⟩
  | new64 seed => exact ⟨.w8, seed, fun _ => rfl⟩
  | new32 seed => exact ⟨.w4, seed, fun _ => rfl⟩
  | _ => cases hx

/-- The calls of a payload absorbed into an empty buffer: one `Mix` for each of its whole blocks, and no `Fin` (R118). -/
theorem Absorbs.calls_of_empty {B rest : List Byte} {t : State} (h : Absorbs B rest s t) (hP : s.P = []) :
    mixCalls t.calls = mixCalls s.calls + B.length / 256 ∧ finCalls t.calls = finCalls s.calls := by
  rw [h.calls, mixCalls_append, finCalls_append, mixCalls_foldCalls, finCalls_foldCalls, hP, List.nil_append]
  exact ⟨rfl, rfl⟩

/-- The call that a digest command makes is one `Fin` call (R150). -/
theorem finCalls_answerDigest (bk : Backend) (op : BitVec 8) (shape : Bytes16 → BitVec 128) (s : State) :
    finCalls (answerDigest bk op shape s).calls = finCalls s.calls + 1 :=
  finCalls_append s.calls [.fin s.seed s.S s.P s.T s.L]

/-- The effect of each digest command is to answer some shape of the digest. -/
theorem execLegal_digest {d : Instr} (hd : isDigestCommand d = true) (s : State) :
    ∃ op shape, execLegal d s = answerDigest Config.backend op shape s := by
  cases d with
  | sum | sumInto dstLen | sum64 | sum32 => exact ⟨_, _, rfl⟩
  | _ => cases hd

/-- Settles O42: the WRITEs absorb their chunks as one payload, from the empty buffer of a new accumulator; a digest
command that no test stops answers a digest. -/
theorem workCounts : Obligations.WorkCounts := by
  refine ⟨fun x cs rest s hx hd hlen => ?writes, fun d s hd hf => ?digest⟩
  case writes =>
    obtain ⟨width, seed, hnew⟩ := exec_construct hx
    obtain ⟨t, ht, habs⟩ := runCommands_writes_absorbs (cs := cs) (rest := rest)
      (s := transferResponse (respond .ok 0 (construct width seed s))) rfl (by simp [State.buffersBounded]) hd
      (by simpa using hlen)
    exact ⟨t, (runCommands_cons _ (hnew s)).trans ht, habs.calls_of_empty rfl⟩
  case digest =>
    obtain ⟨op, shape, he⟩ := execLegal_digest hd s
    refine ⟨_, exec_of_no_fault hf, ?_⟩
    rw [he]
    exact ⟨finCalls_answerDigest _ op shape s, mixCalls_answerDigest _ op shape s⟩

end Sys2Proof.Machine
end

section
/-! PROOF. When a run has ended (R246): what a step at either level does to the account of commands and to `rem`, the same
along a run, and that an HRESET which abandons a command takes it out of the account (R231). -/

namespace Sys2Proof.Machine

variable {bk : Backend} {f : State → Result} {s t : State}

/-! ### The bytes awaited -/

/-- No payload byte is awaited in IDLE, FINAL and RESP (R34). -/
def State.remSettled (s : State) : Prop := s.phase = .idle ∨ s.phase = .final ∨ s.phase = .resp → s.rem = 0

theorem remSettled_of_rem (h : s.rem = 0) : s.remSettled := fun _ => h

/-- Where `rem` itself decides whether the command ends or awaits payload (R125). -/
theorem remSettled_of_decided {p : Phase} (hp : p = .recv ∨ p = .drain)
    (h : s.phase = if s.rem = 0 then .resp else p) : s.remSettled := by
  intro hs
  by_contra h0
  rw [h, if_neg h0] at hs
  rcases hp with rfl | rfl <;> simp at hs

/-- An exception taken in IDLE: none is awaited, or DRAIN awaits the payload (R127, R210). -/
theorem execFaulted_remSettled (e : Status) (i : Instr) (h : s.rem = 0) : (execFaulted e i s).remSettled := by
  cases i with
  | write len =>
    simp only [execFaulted, faultWrite]
    split
    · exact remSettled_of_rem rfl
    · nofun
  | _ => exact remSettled_of_rem h

/-- A command's effect likewise, with RECV in place of DRAIN (R128). -/
theorem execLegal_remSettled (i : Instr) (h : s.rem = 0) : (execLegal i s).remSettled := by
  cases i with
  | write len =>
    simp only [execLegal, writeLegal]
    split
    · rw [writePayload_frame _ len _ (takePayload len s) (takePayload len s) rfl]
      exact remSettled_of_rem rfl
    · nofun
  | _ => exact remSettled_of_rem h

/-- A word accepted by the sequencer likewise (R125). -/
theorem acceptWord_remSettled (w : CmdWord) (h : s.rem = 0) : (acceptWord w s).remSettled := by
  rcases acceptWord_cases w s with ⟨_, _, hw⟩ | ⟨i, e, _, _, hw⟩ | ⟨i, _, _, hw⟩ <;> rw [hw]
  · exact remSettled_of_rem h
  · cases i with
    | write len =>
      rw [acceptFaulted_write]
      exact remSettled_of_decided (.inr rfl) rfl
    | _ => exact remSettled_of_rem h
  · cases i with
    | write len =>
      rw [acceptLegal_write]
      exact remSettled_of_decided (.inl rfl) rfl
    | _ => exact remSettled_of_rem h

/-- A byte received: FOLD, or `rem` decides (R125). -/
theorem receiveByte_remSettled (b : Byte) (hp : s.phase = .recv) : (receiveByte b s).remSettled := by
  rw [receiveByte_eq]
  by_cases hfull : s.P.length + 1 = 256
  · simp [State.remSettled, hfull]
  · exact remSettled_of_decided (.inl hp) (if_neg hfull)

theorem tick_remSettled (h : tick bk s = .next t) (hs : s.remSettled) : t.remSettled := by
  rcases tick_cases h with ⟨_, rfl⟩ | ⟨_, rfl⟩ | ⟨w, ws, _, hp, _, rfl⟩ | ⟨b, bs, _, hp, _, rfl⟩ | ⟨_, _, _, rfl⟩ |
    ⟨b, bs, _, _, _, rfl⟩ | ⟨pl, _, hp, _, rfl⟩ | ⟨_, hp, _, rfl⟩
  · exact remSettled_of_rem rfl
  · exact hs
  · exact acceptWord_remSettled w (hs (.inl hp))
  · exact receiveByte_remSettled b hp
  · exact remSettled_of_decided (.inl rfl) rfl
  · exact remSettled_of_decided (.inr rfl) rfl
  · exact remSettled_of_rem (hs (.inr (.inl hp)))
  · exact remSettled_of_rem (hs (.inr (.inr hp)))

theorem step_remSettled (h : step s = .next t) (hs : s.remSettled) : t.remSettled := by
  rcases step_cases s with ⟨_, e⟩ | ⟨_, _, _, e⟩ | ⟨w, ws, i, _, hp, _, _, e⟩ | ⟨w, ws, why, _, hp, _, _, e⟩ |
    ⟨_, _, e⟩ <;> rw [e] at h
  · cases h
    exact remSettled_of_rem rfl
  · cases h
    exact hs
  · rcases exec_cases h with ⟨e, _, rfl⟩ | ⟨_, rfl⟩
    · exact execFaulted_remSettled e i (hs (.inl hp))
    · exact execLegal_remSettled i (hs (.inl hp))
  · cases h
    exact remSettled_of_rem (hs (.inl hp))
  · exact tick_remSettled h hs

/-! ### The pin `rst` -/

theorem acceptWord_rst (w : CmdWord) (s : State) : (acceptWord w s).rst = s.rst := by
  rcases acceptWord_cases w s with ⟨_, _, hw⟩ | ⟨i, _, _, _, hw⟩ | ⟨i, _, _, hw⟩ <;> rw [hw]
  · rfl
  · cases i with
    | write len => rw [acceptFaulted_write]
    | _ => rfl
  · cases i with
    | write len => rw [acceptLegal_write]
    | _ => rfl

/-- The block does not drive `rst` (R70, R230). -/
theorem tick_rst (h : tick bk s = .next t) : t.rst = s.rst := by
  rcases tick_cases h with ⟨_, rfl⟩ | ⟨_, rfl⟩ | ⟨w, ws, _, _, _, rfl⟩ | ⟨b, bs, _, _, _, rfl⟩ | ⟨_, _, _, rfl⟩ |
    ⟨b, bs, _, _, _, rfl⟩ | ⟨pl, _, _, _, rfl⟩ | ⟨_, _, _, rfl⟩
  · rfl
  · rfl
  · exact acceptWord_rst w { s with cmdIn := ws }
  · rw [receiveByte_eq]
  all_goals rfl

theorem step_rst (h : step s = .next t) : t.rst = s.rst := by
  rcases step_cases s with ⟨_, e⟩ | ⟨_, _, _, e⟩ | ⟨w, ws, i, _, _, _, _, e⟩ | ⟨w, ws, why, _, _, _, _, e⟩ |
    ⟨_, _, e⟩ <;> rw [e] at h
  · cases h
    rfl
  · cases h
    rfl
  · obtain ⟨_, _, _, hrst, _⟩ := exec_channels i _ t h
    exact hrst
  · cases h
    rfl
  · exact tick_rst h

/-! ### A step at either level -/

/-- What the ends of runs turn on in the block's step `f`, at either level (R3): an edge with `rst` 1 is HRESET, any other
step keeps the account of commands, and every step keeps the pin `rst` and `remSettled`. -/
structure KeepsAccount (f : State → Result) : Prop where
  hreset  : ∀ {s}, s.rst = true → f s = .next (hreset s)
  known   : ∀ {s t}, f s = .next t → s.rst = false → t.commandsKnown = s.commandsKnown
  rst     : ∀ {s t}, f s = .next t → t.rst = s.rst
  settled : ∀ {s t}, f s = .next t → s.remSettled → t.remSettled

theorem tick_of_rst (bk : Backend) (hr : s.rst = true) : tick bk s = .next (hreset s) := by
  simp [tick, hr]

theorem keepsAccount_of_level (hf : f = step ∨ ∃ bk, f = tick bk) : KeepsAccount f := by
  rcases hf with rfl | ⟨bk, rfl⟩
  · exact ⟨step_of_rst, step_commandsKnown, step_rst, step_remSettled⟩
  · exact ⟨tick_of_rst bk, tick_commandsKnown, tick_rst, tick_remSettled⟩

/-- An HRESET can only lose commands, and any other step keeps them (R231). -/
theorem KeepsAccount.known_le (hf : KeepsAccount f) (h : f s = .next t) : t.commandsKnown ≤ s.commandsKnown := by
  cases hr : s.rst with
  | false => exact le_of_eq (hf.known h hr)
  | true =>
    rw [hf.hreset hr] at h
    cases h
    exact Nat.le.intro (hreset_commandsKnown s)

/-! ### Along a run -/

/-- Induction along a run that ends in `t`, from its last event to its first. -/
theorem runFrom_induction {P : List RunEvent → State → Prop} (nil : P [] t)
    (host : ∀ a es s, P es (hostAct a s) → P (.host a :: es) s)
    (step : ∀ es s m, f s = .next m → P es m → P (.step :: es) s) {es : List RunEvent}
    (h : runFrom f es s = .next t) : P es s := by
  induction es generalizing s with
  | nil =>
    cases h
    exact nil
  | cons e es ih =>
    cases e with
    | host a => exact host a es s (ih h)
    | step =>
      obtain ⟨m, hm, hrun⟩ := runFrom_step_next h
      exact step es s m hm (ih hrun)

variable {es : List RunEvent}

/-- A run accounts for no more commands than were open or answered at its start, or sent in it. -/
theorem KeepsAccount.run_known_le (hf : KeepsAccount f) (h : runFrom f es s = .next t) :
    t.commandsKnown ≤ s.commandsKnown + commandsSent es := by
  refine runFrom_induction (P := fun es s => t.commandsKnown ≤ s.commandsKnown + commandsSent es) (Nat.le_refl _)
    (fun a es s ih => ?_) (fun es s m hm ih => ?_) h
  · rwa [hostAct_commandsKnown, Nat.add_assoc, ← commandsSent_cons_host] at ih
  · rw [commandsSent_cons_step]
    exact ih.trans (Nat.add_le_add_right (hf.known_le hm) _)

theorem hostAct_rst {a : HostAction} (ha : a ≠ .setRst true) (hr : s.rst = false) : (hostAct a s).rst = false := by
  cases a with
  | setRst rst => simpa [hostAct] using ha
  | _ => exact hr

/-- Without HRESET it accounts for all of them. -/
theorem KeepsAccount.run_known (hf : KeepsAccount f) (hr : s.rst = false) (hno : RunEvent.host (.setRst true) ∉ es)
    (h : runFrom f es s = .next t) : t.commandsKnown = s.commandsKnown + commandsSent es := by
  refine runFrom_induction (P := fun es s => s.rst = false → RunEvent.host (.setRst true) ∉ es →
    t.commandsKnown = s.commandsKnown + commandsSent es) (fun _ _ => rfl)
    (fun a es s ih hr hno => ?_) (fun es s m hm ih hr hno => ?_) h hr hno
  · have hact : (hostAct a s).rst = false := hostAct_rst (fun ha => hno (ha ▸ List.mem_cons_self)) hr
    rw [ih hact (List.not_mem_of_not_mem_cons hno), hostAct_commandsKnown, Nat.add_assoc, ← commandsSent_cons_host]
  · have hrm : m.rst = false := (hf.rst hm).trans hr
    rw [ih hrm (List.not_mem_of_not_mem_cons hno), hf.known hm hr, commandsSent_cons_step]

theorem hostAct_remSettled (a : HostAction) (h : s.remSettled) : (hostAct a s).remSettled := by
  obtain ⟨_, hp, hrem, _⟩ := hostAct_keeps a s
  rwa [State.remSettled, hp, hrem]

theorem KeepsAccount.run_remSettled (hf : KeepsAccount f) (h : runFrom f es s = .next t) (hs : s.remSettled) :
    t.remSettled :=
  runFrom_induction (P := fun _ s => s.remSettled → t.remSettled) id
    (fun a _ _ ih hs => ih (hostAct_remSettled a hs)) (fun _ _ _ hm ih hs => ih (hf.settled hm hs)) h hs

/-- A run that goes through an HRESET in the midst of a command has lost that command from its account (R231). -/
theorem KeepsAccount.run_known_lt_of_abandoned (hf : KeepsAccount f) {es' : List RunEvent} {m : State}
    (hm : runFrom f es s = .next m) (hr : m.rst = true) (hp : m.phase ≠ .idle)
    (h : runFrom f (es ++ .step :: es') s = .next t) :
    t.commandsKnown < s.commandsKnown + commandsSent (es ++ .step :: es') := by
  obtain ⟨m', hm', hrest⟩ := (runFrom_append es _).mp h
  cases hm.symm.trans hm'
  obtain ⟨n, hn, hrun⟩ := runFrom_step_next hrest
  cases (hf.hreset hr).symm.trans hn
  have hbefore := hf.run_known_le hm
  have hlost := hreset_commandsKnown m
  have hafter := hf.run_known_le hrun
  rw [commandsInProgress_of_busy hp] at hlost
  rw [commandsSent_append, commandsSent_cons_step]
  omega

/-! ### The end of a run -/

theorem runEnded_iff : runEnded s es t = true ↔ t.rspOut.length = s.commandsKnown + commandsSent es := beq_iff_eq

theorem commandsOpen_eq_zero : s.commandsOpen = 0 ↔ s.cmdIn = [] ∧ s.phase = .idle := by
  rw [State.commandsOpen, Nat.add_eq_zero_iff, List.length_eq_zero_iff, commandsInProgress_eq_zero]

/-- Settles O55: a run's account at its end is at most the commands that the run is to answer, all of them without HRESET
and fewer once one is abandoned; and the responses accepted are that account less the commands still open. -/
theorem runEndsAtRest : Obligations.RunEndsAtRest := by
  intro f hlevel
  have hf := keepsAccount_of_level hlevel
  have hopen (t : State) : t.commandsKnown = t.rspOut.length + t.commandsOpen := rfl
  refine ⟨fun es s t hs h hend => ?atRest, fun es s t hr hno h => ?withoutHreset,
    fun es es' s m t hm hr hp h => ?abandoned⟩
  case atRest =>
    have hle := hf.run_known_le h
    rw [runEnded_iff] at hend
    obtain ⟨hc, hp⟩ : t.cmdIn = [] ∧ t.phase = .idle := commandsOpen_eq_zero.mp (by rw [hopen t] at hle; omega)
    exact ⟨hp, hf.run_remSettled h hs (.inl hp), hc, by simp [State.callOutstanding, hp]⟩
  case withoutHreset =>
    have hall := hf.run_known hr hno h
    rw [runEnded_iff, ← hall, hopen t, ← commandsOpen_eq_zero]
    omega
  case abandoned =>
    have hlt := hf.run_known_lt_of_abandoned hm hr hp h
    rw [← Bool.not_eq_true, runEnded_iff]
    rw [hopen t] at hlt
    omega

end Sys2Proof.Machine
end
